-- ==== Sys2Proof/Word.lean ====
section
/-! DEFINITION. The word types of the CHIP-8 core: 8-bit register and memory bytes, 16-bit I, PC, stack slots and instruction
words, 12-bit addresses inside an instruction, and 4-bit register numbers (spec 00_scope.md R7, R13). -/

namespace Sys2Proof

/-- A register, a memory byte, a timer or the immediate NN (R7, R20, R29). -/
abbrev Byte := BitVec 8

/-- I, PC, a stack slot or an instruction word (R7, R23, R24, R25, R70). -/
abbrev Word := BitVec 16

/-- The immediate NNN (R73). -/
abbrev Addr12 := BitVec 12

/-- A register number X or Y, 0 to 15 (R10, R73). -/
abbrev RegIdx := Fin 16

/-- A key number, 0 to 15 (R31). -/
abbrev KeyIdx := Fin 16

/-- VF, the flag register, register 15 (R21). -/
abbrev regVF : RegIdx := 15

/-- V0, register 0, the offset of BNNN (R20, R128). -/
abbrev regV0 : RegIdx := 0

end Sys2Proof
end

