-- ==== Sys2Proof/Config.lean ====
section
/-! DEFINITION. What an implementation fixes and what the spec leaves free: the types of the parameters of spec 00_scope.md R8, and
the free values, each an opaque constant with no body. The values the spec takes for its parameters stand in Machine/Params.lean. -/

namespace Sys2Proof

/-- DECODE_59_LOW_NIBBLE (R8, R79): whether 5XYN and 9XYN with N not 0 are unrecognized or are the skip. -/
inductive LowNibbleMode
  | strict
  | ignore
  deriving DecidableEq, Repr, Inhabited

/-- VF_WRITE_ORDER (R8, R140): which of the result and the flag is written last. -/
inductive FlagOrder
  | flagLast
  | resultLast
  deriving DecidableEq, Repr, Inhabited

/-- SHIFT_SOURCE (R8, R150, R151): which register SHR and SHL shift. -/
inductive ShiftSource
  | x
  | y
  deriving DecidableEq, Repr, Inhabited

/-- FONT_INDEX_MODE (R8, R172): whether FX29 uses all of VX or its low nibble. -/
inductive FontIndexMode
  | fullValue
  | lowNibble
  deriving DecidableEq, Repr, Inhabited

/-- FREE VALUE (log 5). DECODE_59_LOW_NIBBLE is OPEN in the spec (R8, R79, D12): nothing says which reading this machine has. -/
opaque Config.decode59LowNibble : LowNibbleMode

/-- FREE VALUE (log 3). RND, the byte the n-th draw gives (R45, R152, D21): any of the 256 values, under no law. -/
opaque Config.rndDraw : Nat → Byte

/-- FREE VALUE (log 4). KEY_PICK, what decides the n-th draw among several released keys (R216, D20). -/
opaque Config.keyDraw : Nat → Nat

end Sys2Proof
end

