-- ==== Sys2Proof/Machine/Fields.lean ====
section
/-! DEFINITION. The fields of an instruction word (spec 30_encoding.md R72, R73), how fields are put together into a word (R74), the
byte order of a word (20_memory.md R51), and the set of words that no instruction claims (R78). -/

namespace Sys2Proof

/-- `n3 = op[15:12]`, which selects the family (R72). -/
def family (op : Word) : Nat := (op.extractLsb' 12 4).toNat

/-- `X = op[11:8]` (R73). -/
def fieldX (op : Word) : RegIdx := (op.extractLsb' 8 4).toFin

/-- `Y = op[7:4]` (R73). -/
def fieldY (op : Word) : RegIdx := (op.extractLsb' 4 4).toFin

/-- `N = op[3:0]` (R73). -/
def fieldN (op : Word) : Fin 16 := (op.extractLsb' 0 4).toFin

/-- `NN = op[7:0]` (R73). -/
def fieldNN (op : Word) : Byte := op.extractLsb' 0 8

/-- `NNN = op[11:0]` (R73). -/
def fieldNNN (op : Word) : Addr12 := op.extractLsb' 0 12

/-- Format F-NNN: `hhhh NNNN NNNN NNNN` (R74). -/
def formNNN (h : BitVec 4) (nnn : Addr12) : Word := h ++ nnn

/-- Format F-XNN, and F-X with NN as its fixed low byte: `hhhh XXXX NNNN NNNN` (R74). -/
def formXNN (h : BitVec 4) (x : RegIdx) (nn : Byte) : Word := h ++ BitVec.ofFin (w := 4) x ++ nn

/-- Format F-XYN, and F-XY with N as its fixed low nibble: `hhhh XXXX YYYY NNNN` (R74). -/
def formXYN (h : BitVec 4) (x y : RegIdx) (n : Fin 16) : Word :=
  h ++ BitVec.ofFin (w := 4) x ++ BitVec.ofFin (w := 4) y ++ BitVec.ofFin (w := 4) n

/-- A word from its two bytes, the byte at the lower address high (R51). -/
def wordOfBytes (hi lo : Byte) : Word := hi ++ lo

/-- The byte of a word that lies at the lower address (R51). -/
def highByte (op : Word) : Byte := op.extractLsb' 8 8

/-- The byte of a word that lies at the higher address (R51). -/
def lowByte (op : Word) : Byte := op.extractLsb' 0 8

/-- The words that decode to UNKNOWN, as R78 lists them; families 5 and 9 depend on DECODE_59_LOW_NIBBLE (R79). -/
def isUnrecognized (mode : LowNibbleMode) (op : Word) : Bool :=
  match family op with
  | 0x8 => decide (fieldN op ∈ ([0x8, 0x9, 0xA, 0xB, 0xC, 0xD, 0xF] : List (Fin 16)))
  | 0xE => decide (fieldNN op ∉ ([0x9E, 0xA1] : List Byte))
  | 0xF => decide (fieldNN op ∉ ([0x07, 0x0A, 0x15, 0x18, 0x1E, 0x29, 0x33, 0x55, 0x65] : List Byte))
  | 0x5 => fieldN op != 0 && mode == .strict
  | 0x9 => fieldN op != 0 && mode == .strict
  | _ => false

end Sys2Proof
end

