-- ==== Sys2Proof/Machine/Params.lean ====
section
/-! DEFINITION. The values of the parameters of spec 00_scope.md R8: one definition each, read by the decoder, the flag and
operand computations and the reset contents of memory. -/

namespace Sys2Proof.Params

/-- DECODE_59_LOW_NIBBLE: OPEN (R79, D12; log 5), so an uninterpreted constant. -/
def decode59LowNibble : LowNibbleMode := Config.decode59LowNibble

/-- VF_WRITE_ORDER = FlagLast (R8, R140, D15; log 6, UNVERIFIED). -/
def flagOrder : FlagOrder := .flagLast

/-- SHIFT_SOURCE = X (R8, R150, D14; log 7, UNVERIFIED). -/
def shiftSource : ShiftSource := .x

/-- FONT_INDEX_MODE = FullValue (R8, R172, C2, D17; log 8, UNVERIFIED). -/
def fontIndexMode : FontIndexMode := .fullValue

/-- FONT_BYTES (R8, R60, D9; log 9, PRESUMED: the spec takes the standard font from general knowledge), glyphs 0 to 7. -/
def fontLow : List Byte :=
  [0xF0, 0x90, 0x90, 0x90, 0xF0] ++ [0x20, 0x60, 0x20, 0x20, 0x70] ++
  [0xF0, 0x10, 0xF0, 0x80, 0xF0] ++ [0xF0, 0x10, 0xF0, 0x10, 0xF0] ++
  [0x90, 0x90, 0xF0, 0x10, 0x10] ++ [0xF0, 0x80, 0xF0, 0x10, 0xF0] ++
  [0xF0, 0x80, 0xF0, 0x90, 0xF0] ++ [0xF0, 0x10, 0x20, 0x40, 0x40]

/-- FONT_BYTES (R60; log 9), glyphs 8 to F. -/
def fontHigh : List Byte :=
  [0xF0, 0x90, 0xF0, 0x90, 0xF0] ++ [0xF0, 0x90, 0xF0, 0x10, 0xF0] ++
  [0xF0, 0x90, 0xF0, 0x90, 0x90] ++ [0xE0, 0x90, 0xE0, 0x90, 0xE0] ++
  [0xF0, 0x80, 0x80, 0x80, 0xF0] ++ [0xE0, 0x90, 0x90, 0x90, 0xE0] ++
  [0xF0, 0x80, 0xF0, 0x80, 0xF0] ++ [0xF0, 0x80, 0xF0, 0x80, 0x80]

/-- The 80 bytes of the font, glyph `d` at `5 * d` (R57, R60). -/
def fontBytes : List Byte := fontLow ++ fontHigh

end Sys2Proof.Params
end

