-- ==== Sys2Proof/Syntax.lean ====
section
/-! DEFINITION. The instructions: one constructor for each row of spec/opcode_table.json (30_encoding.md R76, R77), its operands
already taken out of the word. -/

namespace Sys2Proof

inductive Instr
  /-- 00E0, clear the display (R190). -/
  | cls
  /-- 00EE, return from a subroutine (R120). -/
  | ret
  /-- 0NNN other than 00E0 and 00EE, legacy no-op (R230). -/
  | sys (nnn : Addr12)
  /-- 1NNN, jump (R121). -/
  | jp (nnn : Addr12)
  /-- 2NNN, call a subroutine (R122). -/
  | call (nnn : Addr12)
  /-- 3XNN, skip if VX = NN (R123). -/
  | seImm (x : RegIdx) (nn : Byte)
  /-- 4XNN, skip if VX is not NN (R124). -/
  | sneImm (x : RegIdx) (nn : Byte)
  /-- 5XY0, skip if VX = VY (R125). -/
  | seReg (x y : RegIdx)
  /-- 6XNN, set VX to NN (R141). -/
  | ldImm (x : RegIdx) (nn : Byte)
  /-- 7XNN, add NN to VX, no flag (R142). -/
  | addImm (x : RegIdx) (nn : Byte)
  /-- 8XY0, copy VY to VX (R143). -/
  | ldReg (x y : RegIdx)
  /-- 8XY1, bitwise OR (R144). -/
  | or (x y : RegIdx)
  /-- 8XY2, bitwise AND (R145). -/
  | and (x y : RegIdx)
  /-- 8XY3, bitwise exclusive OR (R146). -/
  | xor (x y : RegIdx)
  /-- 8XY4, add VY to VX with carry out in VF (R147). -/
  | addReg (x y : RegIdx)
  /-- 8XY5, VX - VY, not-borrow in VF (R148). -/
  | sub (x y : RegIdx)
  /-- 8XY6, shift right by one (R150). -/
  | shr (x y : RegIdx)
  /-- 8XY7, VY - VX, not-borrow in VF (R149). -/
  | subn (x y : RegIdx)
  /-- 8XYE, shift left by one (R151). -/
  | shl (x y : RegIdx)
  /-- 9XY0, skip if VX is not VY (R126). -/
  | sneReg (x y : RegIdx)
  /-- ANNN, set I (R170). -/
  | ldI (nnn : Addr12)
  /-- BNNN, jump to NNN plus V0 (R128). -/
  | jpV0 (nnn : Addr12)
  /-- CXNN, random byte masked by NN (R152). -/
  | rnd (x : RegIdx) (nn : Byte)
  /-- DXYN, draw an N-row sprite (R191). -/
  | drw (x y : RegIdx) (n : Fin 16)
  /-- EX9E, skip if the key in VX is pressed (R210). -/
  | skp (x : RegIdx)
  /-- EXA1, skip if the key in VX is not pressed (R211). -/
  | sknp (x : RegIdx)
  /-- FX07, read DT (R212). -/
  | ldVxDt (x : RegIdx)
  /-- FX0A, wait for a key release (R215). -/
  | ldVxK (x : RegIdx)
  /-- FX15, write DT (R217). -/
  | ldDtVx (x : RegIdx)
  /-- FX18, write ST (R218). -/
  | ldStVx (x : RegIdx)
  /-- FX1E, add VX to I (R171). -/
  | addIVx (x : RegIdx)
  /-- FX29, I to the glyph of VX (R172). -/
  | ldFVx (x : RegIdx)
  /-- FX33, store the decimal digits of VX (R173). -/
  | ldBVx (x : RegIdx)
  /-- FX55, store V0 up to but excluding VX (R176). -/
  | ldMiVx (x : RegIdx)
  /-- FX65, load V0 through VX (R177). -/
  | ldVxMi (x : RegIdx)
  /-- Any other word, a no-op that carries the word (R231). -/
  | unknown (raw : Word)
  deriving DecidableEq, Repr

end Sys2Proof
end

