-- ==== Sys2Proof/Decode.lean ====
section
/-! DEFINITION. The decoder, total on every 16-bit word (spec 30_encoding.md R71, R76) and on every list of bytes, and the encoder
written from the formats of R74. The bit patterns are the spec's own (R76, R77, D11; log 11). -/

namespace Sys2Proof

/-- Why a list of bytes holds no instruction. -/
inductive DecodeError
  /-- Fewer than the two bytes every instruction has (R70). Safe: the fetch always gives two bytes. -/
  | truncated
  deriving DecidableEq, Repr

/-- Family 8, by the low nibble (R76). -/
def decode8 (op : Word) (x y : RegIdx) : Instr :=
  match (fieldN op).val with
  | 0x0 => .ldReg x y
  | 0x1 => .or x y
  | 0x2 => .and x y
  | 0x3 => .xor x y
  | 0x4 => .addReg x y
  | 0x5 => .sub x y
  | 0x6 => .shr x y
  | 0x7 => .subn x y
  | 0xE => .shl x y
  | _ => .unknown op

/-- Family E, by the low byte (R76). -/
def decodeE (op : Word) (x : RegIdx) : Instr :=
  match (fieldNN op).toNat with
  | 0x9E => .skp x
  | 0xA1 => .sknp x
  | _ => .unknown op

/-- Family F, by the low byte (R76). -/
def decodeF (op : Word) (x : RegIdx) : Instr :=
  match (fieldNN op).toNat with
  | 0x07 => .ldVxDt x
  | 0x0A => .ldVxK x
  | 0x15 => .ldDtVx x
  | 0x18 => .ldStVx x
  | 0x1E => .addIVx x
  | 0x29 => .ldFVx x
  | 0x33 => .ldBVx x
  | 0x55 => .ldMiVx x
  | 0x65 => .ldVxMi x
  | _ => .unknown op

/-- `Decode59` of R76: what a word of family 5 or 9 with N not 0 is. -/
def decode59 (mode : LowNibbleMode) (op : Word) (skip : Instr) : Instr :=
  match mode with
  | .strict => .unknown op
  | .ignore => skip

/-- `Decode` of R76, with DECODE_59_LOW_NIBBLE as an argument. -/
def decodeWith (mode : LowNibbleMode) (op : Word) : Instr :=
  let x := fieldX op
  let y := fieldY op
  match family op with
  | 0x0 => if op = 0x00E0#16 then .cls else if op = 0x00EE#16 then .ret else .sys (fieldNNN op)
  | 0x1 => .jp (fieldNNN op)
  | 0x2 => .call (fieldNNN op)
  | 0x3 => .seImm x (fieldNN op)
  | 0x4 => .sneImm x (fieldNN op)
  | 0x5 => if fieldN op = 0 then .seReg x y else decode59 mode op (.seReg x y)
  | 0x6 => .ldImm x (fieldNN op)
  | 0x7 => .addImm x (fieldNN op)
  | 0x8 => decode8 op x y
  | 0x9 => if fieldN op = 0 then .sneReg x y else decode59 mode op (.sneReg x y)
  | 0xA => .ldI (fieldNNN op)
  | 0xB => .jpV0 (fieldNNN op)
  | 0xC => .rnd x (fieldNN op)
  | 0xD => .drw x y (fieldN op)
  | 0xE => decodeE op x
  | _ => decodeF op x

/-- `Decode` of R76 at this machine's parameter (R79; log 5). -/
def decode (op : Word) : Instr := decodeWith Params.decode59LowNibble op

/-- The decoder on bytes: the instruction and what follows it (R51, R70). -/
def decodeBytes : List Byte → Except DecodeError (Instr × List Byte)
  | hi :: lo :: rest => .ok (decode (wordOfBytes hi lo), rest)
  | _ => .error .truncated

/-- The word of an instruction, from the formats of R74 and the patterns of R77. -/
def encode : Instr → Word
  | .cls => 0x00E0#16
  | .ret => 0x00EE#16
  | .sys nnn => formNNN 0x0#4 nnn
  | .jp nnn => formNNN 0x1#4 nnn
  | .call nnn => formNNN 0x2#4 nnn
  | .seImm x nn => formXNN 0x3#4 x nn
  | .sneImm x nn => formXNN 0x4#4 x nn
  | .seReg x y => formXYN 0x5#4 x y 0x0
  | .ldImm x nn => formXNN 0x6#4 x nn
  | .addImm x nn => formXNN 0x7#4 x nn
  | .ldReg x y => formXYN 0x8#4 x y 0x0
  | .or x y => formXYN 0x8#4 x y 0x1
  | .and x y => formXYN 0x8#4 x y 0x2
  | .xor x y => formXYN 0x8#4 x y 0x3
  | .addReg x y => formXYN 0x8#4 x y 0x4
  | .sub x y => formXYN 0x8#4 x y 0x5
  | .shr x y => formXYN 0x8#4 x y 0x6
  | .subn x y => formXYN 0x8#4 x y 0x7
  | .shl x y => formXYN 0x8#4 x y 0xE
  | .sneReg x y => formXYN 0x9#4 x y 0x0
  | .ldI nnn => formNNN 0xA#4 nnn
  | .jpV0 nnn => formNNN 0xB#4 nnn
  | .rnd x nn => formXNN 0xC#4 x nn
  | .drw x y n => formXYN 0xD#4 x y n
  | .skp x => formXNN 0xE#4 x 0x9E#8
  | .sknp x => formXNN 0xE#4 x 0xA1#8
  | .ldVxDt x => formXNN 0xF#4 x 0x07#8
  | .ldVxK x => formXNN 0xF#4 x 0x0A#8
  | .ldDtVx x => formXNN 0xF#4 x 0x15#8
  | .ldStVx x => formXNN 0xF#4 x 0x18#8
  | .addIVx x => formXNN 0xF#4 x 0x1E#8
  | .ldFVx x => formXNN 0xF#4 x 0x29#8
  | .ldBVx x => formXNN 0xF#4 x 0x33#8
  | .ldMiVx x => formXNN 0xF#4 x 0x55#8
  | .ldVxMi x => formXNN 0xF#4 x 0x65#8
  | .unknown raw => raw

/-- The bytes of an instruction as memory holds them, high byte first (R51). -/
def encodeBytes (i : Instr) : List Byte := [highByte (encode i), lowByte (encode i)]

/-- The bytes memory holds for a table word of `nbits` bits whose bits are `w` (R51, R70). -/
def bytesOfTableWord (nbits w : Nat) : List Byte :=
  let op := BitVec.ofNat 16 (w % 2 ^ nbits)
  [highByte op, lowByte op]

/-- What the decoder reads from a word of the opcode table. -/
def decodeTableWord (nbits w : Nat) : Option Instr :=
  match decodeBytes (bytesOfTableWord nbits w) with
  | .ok (i, _) => some i
  | .error _ => none

end Sys2Proof
end

