-- ==== Sys2Proof/Machine/Memory.lean ====
section
/-! DEFINITION. The one address space (spec 20_memory.md R50): 4096 bytes, held as a list of (address, byte) pairs in one canonical
form, addresses strictly rising and no entry equal to the reset contents of its address. -/

namespace Sys2Proof.Machine

/-- MEM_SIZE (R7, R29): addresses 0x000 to 0xFFF. -/
def memSize : Nat := 4096

/-- PROGRAM_BASE (R7): the reset PC and the load address. -/
def programBase : Nat := 0x200

/-- What an address nothing has written reads as: the reset contents, the font at 0x000 to 0x04F and 0 above (R38, R57, R60; log 9,
log 12). -/
def Memory.initialByte (a : Nat) : Byte := Params.fontBytes.getD a 0

/-- `MemRead(a, 1)` (R11). Every instruction checks its addresses first, so `a` is in range wherever this is called. -/
def Memory.read (m : List Host.Cell) (a : Nat) : Byte :=
  match m with
  | [] => Memory.initialByte a
  | c :: m => if c.1 = a then c.2 else Memory.read m a

/-- `m` without an entry for `a`. -/
def Memory.erase (m : List Host.Cell) (a : Nat) : List Host.Cell :=
  m.filter (fun c => c.1 != a)

/-- `m` with the entry `(a, b)` put where its address belongs. -/
def Memory.insert (m : List Host.Cell) (a : Nat) (b : Byte) : List Host.Cell :=
  match m with
  | [] => [(a, b)]
  | c :: m => if a < c.1 then (a, b) :: c :: m else c :: Memory.insert m a b

/-- `MemWrite(a, 1, b)` (R11), keeping the canonical form. No instruction writes outside memory (R55), and nothing is there to
write (log 26). -/
def Memory.write (m : List Host.Cell) (a : Nat) (b : Byte) : List Host.Cell :=
  if memSize ≤ a then m
  else if b = Memory.initialByte a then Memory.erase m a
  else Memory.insert (Memory.erase m a) a b

/-- The canonical form. -/
abbrev Memory.wf (m : List Host.Cell) : Prop :=
  m.Pairwise (fun c d => c.1 < d.1) ∧ ∀ c ∈ m, c.1 < memSize ∧ c.2 ≠ Memory.initialByte c.1

/-- The first address at or after `base`, of the `n` bytes from there, that is above 0xFFF (R54, R55, R245: the sum does not wrap, and
the lowest out-of-range address is the one recorded). -/
def firstOutOfRange (base : Nat) (n : Nat) : Option Nat :=
  match n with
  | 0 => none
  | k + 1 =>
    match firstOutOfRange base k with
    | some a => some a
    | none => if memSize ≤ base + k then some (base + k) else none

end Sys2Proof.Machine
end

