-- ==== Sys2Proof/Machine/State.lean ====
section
/-! DEFINITION. The state of the core (spec 10_state.md, every piece of it), its reset value (R38, R270), and the reasons a step can
stop. -/

namespace Sys2Proof.Machine

/-- `Keys` or `KeysPrev`: 16 one-bit flags, true = pressed (R31, R32). -/
abbrev KeyMatrix := Vector Bool 16

/-- `Disp[row][col]`, 32 rows of 64 pixels, true = lit (R30). -/
abbrev Display := Vector (Vector Bool 64) 32

/-- FaultCode (R36, R241); `FaultCode.toBits` gives the spec's numbers. -/
inductive FaultCode
  /-- No fault, code 0. -/
  | none
  /-- An instruction byte's address is above 0xFFF, code 1. Raised by the cycle's fetch. -/
  | fetchFault
  /-- A data read above 0xFFF, code 2. Raised by DXYN and FX65. -/
  | readFault
  /-- A data write above 0xFFF, code 3. Raised by FX33 and FX55. -/
  | writeFault
  /-- RET with SP = 0, code 4. -/
  | stackUnderflow
  /-- CALL with SP = 32, code 5. -/
  | stackOverflow
  deriving DecidableEq, Repr

/-- The fault latch (R36). -/
structure FaultLatch where
  /-- FaultCode. -/
  code : FaultCode
  /-- FaultPC, the address of the instruction whose cycle faulted. -/
  pc : Word
  /-- FaultAddr, the first out-of-range address, 17 bits; 0 for stack faults. -/
  addr : BitVec 17
  deriving DecidableEq, Repr

/-- The state. The last three fields are the model's own: an output event and two kinds of input. -/
structure State where
  /-- V[0..15] (R20). -/
  v : Vector Byte 16
  /-- I (R24). -/
  i : Word
  /-- PC (R23). -/
  pc : Word
  /-- SP, the count of valid stack entries (R26). -/
  sp : Fin 33
  /-- S[0..31] (R25). -/
  stack : Vector Word 32
  /-- DT (R27). -/
  dt : Byte
  /-- ST (R28). -/
  st : Byte
  /-- Memory (R29), in the canonical form `Memory.wf`. -/
  mem : List Host.Cell
  /-- Disp (R30). -/
  disp : Display
  /-- DrawFlag (R33). -/
  drawFlag : Bool
  /-- Keys, the matrix of the current cycle (R31). -/
  keys : KeyMatrix
  /-- KeysPrev, the matrix of the previous completed cycle (R32). -/
  keysPrev : KeyMatrix
  /-- The fault latch (R36). -/
  fault : FaultLatch
  /-- The Beep event of the last cycle (R47; log 18). -/
  beep : Bool
  /-- The key samples the host supplies, one for each coming cycle (R44, R48; log 2). -/
  keyInputs : List KeyMatrix
  /-- How many free values have been drawn (R45, R216; log 3, log 4). No statement rests on its value. -/
  draws : Nat
  deriving DecidableEq, Repr

/-- Why a step stops with a fault. -/
inductive Fault
  /-- The core is stopped: FaultCode is not 0, so it takes no cycle (R248). Raised by the step alone. Safe: nothing can be proved of a
  next state that there is not (log 14). -/
  | stopped (code : FaultCode)
  deriving DecidableEq, Repr

/-- Why something is refused. -/
inductive Refusal
  /-- An instruction without a meaning yet. Raised by no arm of this model. Safe. -/
  | notModelled (mnemonic : String)
  /-- The host's image does not fit in 0x200 to 0xFFF (R273). Raised by `hostLoadImage` alone. Safe: no core is started (log 19). -/
  | imageTooLarge (length : Nat)
  deriving DecidableEq, Repr

/-- What an instruction or a cycle answers. -/
abbrev Result := Host.Outcome State Fault Refusal

/-- The machine after reset, before an image is loaded (R38, R270, R271). Values the source does not give: log 12 (the spec's decision
D8), log 13 (FaultPC and FaultAddr), log 2 to log 4 (the model's own fields). -/
def State.reset : State where
  v := Vector.replicate 16 0
  i := 0
  pc := 0x200
  sp := 0
  stack := Vector.replicate 32 0
  dt := 0
  st := 0
  mem := []
  disp := Vector.replicate 32 (Vector.replicate 64 false)
  drawFlag := false
  keys := Vector.replicate 16 false
  keysPrev := Vector.replicate 16 false
  fault := { code := .none, pc := 0, addr := 0 }
  beep := false
  keyInputs := []
  draws := 0

end Sys2Proof.Machine
end

