-- ==== Sys2Proof/Machine/Ops.lean ====
section
/-! DEFINITION. The named operations over registers, memory, the stack, the display and the fault latch; every meaning and the cycle
go through them. -/

namespace Sys2Proof.Machine

/-! ### Registers -/

/-- `V[x]` (R10, R20). -/
def State.reg (s : State) (x : RegIdx) : Byte := s.v[x]

/-- `V[x] <- b` (R10, R20): every register holds any value, none is hard-wired. -/
def State.setReg (s : State) (x : RegIdx) (b : Byte) : State := { s with v := s.v.set x b }

/-- `I <- w` (R24). -/
def State.setI (s : State) (w : Word) : State := { s with i := w }

/-- `PC <- w` (R10, R23). -/
def State.setPc (s : State) (w : Word) : State := { s with pc := w }

/-- `PC <- PC + 2`: the cycle's advance (R102) and a skip (R127). -/
def State.advancePc (s : State) : State := s.setPc (s.pc + 2)

/-- `PC <- PC - 2`: FX0A's rewind (R215) and the undone advance of a fault (R246). -/
def State.rewindPc (s : State) : State := s.setPc (s.pc - 2)

/-- The skip: PC is advanced by 2 more if the condition holds (R15, R127). -/
def State.skipIf (s : State) (c : Bool) : State := if c then s.advancePc else s

/-- `DT <- b` (R27). -/
def State.setDt (s : State) (b : Byte) : State := { s with dt := b }

/-- `ST <- b` (R28). -/
def State.setSt (s : State) (b : Byte) : State := { s with st := b }

/-! ### Memory -/

/-- The byte at address `a`. -/
def State.byteAt (s : State) (a : Nat) : Byte := Memory.read s.mem a

/-- Store one byte (R52). -/
def State.setByte (s : State) (a : Nat) (b : Byte) : State := { s with mem := Memory.write s.mem a b }

/-- The effective address of the k-th byte of an access based on I: a mathematical sum (R54). -/
def State.ea (s : State) (k : Nat) : Nat := s.i.toNat + k

/-- `MemWrite(I + k, 1, f k)` for k = 0 .. n-1, in ascending order (R61). -/
def State.storeBytes (s : State) (n : Nat) (f : Nat → Byte) : State :=
  (List.range n).foldl (fun t k => t.setByte (s.ea k) (f k)) s

/-- `V[k] <- MemRead(I + k, 1)` for k = 0 .. n-1, in ascending order (R61); at most 16 registers. -/
def State.loadRegs (s : State) (n : Nat) : State :=
  (List.range n).foldl (fun t k => t.setReg (Fin.ofNat 16 k) (s.byteAt (s.ea k))) s

/-- The big-endian word at `a` (R51). -/
def State.wordAt (s : State) (a : Nat) : Word := wordOfBytes (s.byteAt a) (s.byteAt (a + 1))

/-- `s` with the bytes of a word at `a`, high byte first (R51): how a test places an instruction where the fetch finds it (log 19). -/
def State.placeWord (s : State) (a : Nat) (bytes : List Byte) : State :=
  match bytes with
  | [] => s
  | b :: bs => (s.setByte a b).placeWord (a + 1) bs

/-! ### Call stack -/

/-- `S[SP] <- w; SP <- SP + 1` (R25, R26), for SP below 32. -/
def State.push (s : State) (h : s.sp.val < 32) (w : Word) : State :=
  { s with stack := s.stack.set s.sp.val w h, sp := ⟨s.sp.val + 1, Nat.succ_lt_succ h⟩ }

/-- `SP <- SP - 1; PC <- S[SP]` (R26, R120), for SP above 0. The popped slot keeps its value (R25). -/
def State.popPc (s : State) (h : 0 < s.sp.val) : State :=
  { s with
    sp := ⟨s.sp.val - 1, Nat.lt_of_le_of_lt (Nat.sub_le _ _) s.sp.isLt⟩
    pc := s.stack[s.sp.val - 1]'(by have := s.sp.isLt; omega) }

/-! ### Display -/

/-- `Disp[row][col]` (R10, R30). -/
def Display.pixel (d : Display) (row : Fin 32) (col : Fin 64) : Bool := d[row][col]

/-- `Disp[row][col] <- b`. -/
def Display.setPixel (d : Display) (row : Fin 32) (col : Fin 64) (b : Bool) : Display :=
  d.set row (d[row].set col b)

/-- Every pixel 0 (R190). -/
def Display.blank : Display := Vector.replicate 32 (Vector.replicate 64 false)

/-- `Disp[row][col]` of a state. -/
def State.pixel (s : State) (row : Fin 32) (col : Fin 64) : Bool := Display.pixel s.disp row col

/-! ### The fault: the one exception of this machine

There is no vector, no handler and no return (R240, R251): a fault records itself and stops the core until reset (R246 to R248). -/

/-- FaultCode as the spec numbers it (R36, R241). -/
def FaultCode.toBits : FaultCode → BitVec 4
  | .none => 0
  | .fetchFault => 1
  | .readFault => 2
  | .writeFault => 3
  | .stackUnderflow => 4
  | .stackOverflow => 5

/-- Write the fault latch in a state whose PC is the faulting instruction's address (R247). -/
def State.recordFault (s : State) (code : FaultCode) (addr : Nat) : State :=
  { s with fault := { code := code, pc := s.pc, addr := BitVec.ofNat 17 addr } }

/-- `raise <Fault>(addr)` inside Execute (R12, R246): the cycle's advance is undone and only the latch is written. Every meaning calls
it before its first write, so nothing else has changed. The answer is a NEXT state that holds the record (log 14). -/
def raiseFault (code : FaultCode) (addr : Nat) (s : State) : Result :=
  .next (s.rewindPc.recordFault code addr)

/-- Run `body` when all `n` bytes from I on are in range, and raise the fault at the first that is not (R55, R245, R246). -/
def checkAccess (code : FaultCode) (n : Nat) (s : State) (body : State) : Result :=
  match firstOutOfRange s.i.toNat n with
  | some a => raiseFault code a s
  | none => .next body

end Sys2Proof.Machine
end

