-- ==== Sys2Proof/Machine/Cycle.lean ====
section
/-! DEFINITION. The cycle around an instruction (spec 40_cycle.md R100): key sample, fetch, advance, execute, timer tick, key latch; with
the fault handling of 60_exceptions.md R246 to R248. `Execute` is an argument, so that nothing here depends on the instructions. -/

namespace Sys2Proof.Machine

/-- The host's key sample for this cycle (R44): the next one of `keyInputs`, or the matrix as it stands (log 2). -/
def State.sampleKeys (s : State) : State :=
  match s.keyInputs with
  | [] => s
  | k :: ks => { s with keys := k, keyInputs := ks }

/-- The state a cycle starts from: keys sampled, no beep emitted yet in this cycle (R44, R47; log 18). -/
def State.beginCycle (s : State) : State := { s.sampleKeys with beep := false }

/-- Delay timer tick (R106). -/
def State.tickDelay (s : State) : State := if s.dt = 0 then s else s.setDt (s.dt - 1)

/-- Sound timer tick and beep (R107). -/
def State.tickSound (s : State) : State :=
  if s.st = 0 then s else { s with st := s.st - 1, beep := s.st == 1 }

/-- Key latch (R108): `KeysPrev <- Keys`. -/
def State.latchKeys (s : State) : State := { s with keysPrev := s.keys }

/-- What every completed cycle does after Execute (R100, R106 to R108). -/
def State.endCycle (s : State) : State := s.tickDelay.tickSound.latchKeys

/-- A cycle whose instruction faulted ends there, with only the latch written (R246); any other completes. -/
def finishCycle (t : State) : State := if t.fault.code = .none then t.endCycle else t

/-- Decode, advance and execute, once the fetch is in range (R101 to R105). -/
def executeAt (execute : Instr → State → Result) (s : State) : Result :=
  match execute (decode (s.wordAt s.pc.toNat)) s.advancePc with
  | .next t => .next (finishCycle t)
  | .fault f => .fault f
  | .refused r => .refused r

/-- `Cycle` of R100. -/
def cycleWith (execute : Instr → State → Result) (s : State) : Result :=
  if s.fault.code = .none then
    match firstOutOfRange s.pc.toNat 2 with
    | some a => .next (s.beginCycle.recordFault .fetchFault a)
    | none => executeAt execute s.beginCycle
  else .fault (.stopped s.fault.code)

end Sys2Proof.Machine
end

