-- ==== Sys2Proof/Machine/Flags.lean ====
section
/-! DEFINITION. The results and flags of the instructions that write VF (spec 42_alu.md R140, R147 to R151), each computed exactly and
narrowed at the end, and the order in which result and flag are written. -/

namespace Sys2Proof.Machine

/-- A flag as VF holds it: 0 or 1 (R34). -/
def flagByte (f : Bool) : Byte := if f then 1 else 0

/-- `(a + b) mod 256` (R142, R147). -/
def addResult (a b : Byte) : Byte := BitVec.ofNat 8 (a.toNat + b.toNat)

/-- Carry out: `a + b > 255` (R147). -/
def addCarry (a b : Byte) : Bool := decide (255 < a.toNat + b.toNat)

/-- `(a - b) mod 256` (R148, R149). -/
def subResult (a b : Byte) : Byte := BitVec.ofInt 8 ((a.toNat : Int) - (b.toNat : Int))

/-- Not-borrow: `a >= b` (R148, R149). -/
def subNoBorrow (a b : Byte) : Bool := decide (b.toNat ≤ a.toNat)

/-- `src >> 1`, logical (R150). -/
def shrResult (a : Byte) : Byte := a >>> 1

/-- The bit SHR shifts out, `src[0]` (R150). -/
def shrOut (a : Byte) : Bool := a.getLsbD 0

/-- `(src << 1) mod 256` (R151). -/
def shlResult (a : Byte) : Byte := a <<< 1

/-- The bit SHL shifts out, `src[7]` (R151). -/
def shlOut (a : Byte) : Bool := a.getLsbD 7

/-- `WriteResultAndFlag(X, r, f)` of R140, with VF_WRITE_ORDER as an argument. -/
def writeResultAndFlagWith (order : FlagOrder) (x : RegIdx) (r : Byte) (f : Bool) (s : State) : State :=
  match order with
  | .flagLast => (s.setReg x r).setReg regVF (flagByte f)
  | .resultLast => (s.setReg regVF (flagByte f)).setReg x r

/-- `WriteResultAndFlag(X, r, f)` (R140; log 6). -/
def writeResultAndFlag (x : RegIdx) (r : Byte) (f : Bool) (s : State) : State :=
  writeResultAndFlagWith Params.flagOrder x r f s

end Sys2Proof.Machine
end

