-- ==== Sys2Proof/Machine/Operands.lean ====
section
/-! DEFINITION. The operand values of the instructions (spec 30_encoding.md R75): addresses from NNN, the glyph address, the decimal
digits, the keys a register names or FX0A finds released, and the free values an instruction draws. -/

namespace Sys2Proof.Machine

/-- `zext_16(NNN)` (R75). -/
def addrOf (nnn : Addr12) : Word := nnn.setWidth 16

/-- `zext_16(b)` (R9). -/
def wide (b : Byte) : Word := b.setWidth 16

/-- BNNN's target, unsigned and not reduced to 12 bits (R128). -/
def jumpOffsetTarget (nnn : Addr12) (b : Byte) : Word := addrOf nnn + wide b

/-- FX29's glyph address under FONT_INDEX_MODE (R172). -/
def glyphAddrWith (mode : FontIndexMode) (b : Byte) : Word :=
  match mode with
  | .fullValue => wide b * 5
  | .lowNibble => (b.extractLsb' 0 4).setWidth 16 * 5

/-- FX29's glyph address (R172, C2; log 8). -/
def glyphAddr (b : Byte) : Word := glyphAddrWith Params.fontIndexMode b

/-- The k-th byte FX33 writes: hundreds, tens, units (R173). -/
def bcdDigit (b : Byte) (k : Nat) : Byte :=
  match k with
  | 0 => BitVec.ofNat 8 (b.toNat / 100)
  | 1 => BitVec.ofNat 8 (b.toNat / 10 % 10)
  | _ => BitVec.ofNat 8 (b.toNat % 10)

/-- The value SHR and SHL shift, under SHIFT_SOURCE (R150, R151). -/
def shiftOperandWith (src : ShiftSource) (x y : RegIdx) (s : State) : Byte :=
  match src with
  | .x => s.reg x
  | .y => s.reg y

/-- The value SHR and SHL shift (log 7). -/
def shiftOperand (x y : RegIdx) (s : State) : Byte := shiftOperandWith Params.shiftSource x y s

/-- Whether the key a register names is pressed; values of 16 or more are never pressed (R210, R211). -/
def keyPressed (b : Byte) (s : State) : Bool :=
  if h : b.toNat < 16 then s.keys[b.toNat] else false

/-- Key `k` is released in this cycle (R32). -/
def keyReleased (s : State) (k : KeyIdx) : Bool := s.keysPrev[k] && !s.keys[k]

/-- The keys FX0A finds released, lowest first (R215). -/
def releasedKeys (s : State) : List KeyIdx := (List.finRange 16).filter (keyReleased s)

/-- `Pick(released)` (R216): the one released key, or a free choice among several (log 4). -/
def pickKey (draw : Nat) (k : KeyIdx) (ks : List KeyIdx) : KeyIdx :=
  match ks with
  | [] => k
  | _ :: _ => (k :: ks)[draw % (k :: ks).length]'(Nat.mod_lt _ (Nat.succ_pos _))

/-- One free value of the step is consumed (R12, R45). -/
def State.countDraw (s : State) : State := { s with draws := s.draws + 1 }

end Sys2Proof.Machine
end

