-- ==== Sys2Proof/Machine/Alu.lean ====
section
/-! DEFINITION. The meanings of the register and ALU instructions (spec 42_alu.md). None touches memory and none faults. Operands are read
before anything is written (R154). -/

namespace Sys2Proof.Machine

/-- 6XNN (R141): `V[X] <- NN`. -/
def execLdImm (x : RegIdx) (nn : Byte) (s : State) : Result := .next (s.setReg x nn)

/-- 7XNN (R142): `V[X] <- (V[X] + NN) mod 256`, no flag. -/
def execAddImm (x : RegIdx) (nn : Byte) (s : State) : Result := .next (s.setReg x (addResult (s.reg x) nn))

/-- 8XY0 (R143): `V[X] <- V[Y]`. -/
def execLdReg (x y : RegIdx) (s : State) : Result := .next (s.setReg x (s.reg y))

/-- 8XY1 (R144): bitwise OR, VF unchanged (log 22). -/
def execOr (x y : RegIdx) (s : State) : Result := .next (s.setReg x (s.reg x ||| s.reg y))

/-- 8XY2 (R145): bitwise AND, VF unchanged (log 22). -/
def execAnd (x y : RegIdx) (s : State) : Result := .next (s.setReg x (s.reg x &&& s.reg y))

/-- 8XY3 (R146): bitwise exclusive OR, VF unchanged (log 22). -/
def execXor (x y : RegIdx) (s : State) : Result := .next (s.setReg x (s.reg x ^^^ s.reg y))

/-- 8XY4 (R147): sum, carry in VF. -/
def execAddReg (x y : RegIdx) (s : State) : Result :=
  .next (writeResultAndFlag x (addResult (s.reg x) (s.reg y)) (addCarry (s.reg x) (s.reg y)) s)

/-- 8XY5 (R148): VX - VY, VF = 1 if no borrow. -/
def execSub (x y : RegIdx) (s : State) : Result :=
  .next (writeResultAndFlag x (subResult (s.reg x) (s.reg y)) (subNoBorrow (s.reg x) (s.reg y)) s)

/-- 8XY7 (R149): VY - VX, VF = 1 if no borrow. -/
def execSubn (x y : RegIdx) (s : State) : Result :=
  .next (writeResultAndFlag x (subResult (s.reg y) (s.reg x)) (subNoBorrow (s.reg y) (s.reg x)) s)

/-- 8XY6 (R150): logical shift right by one, VF = the bit shifted out. -/
def execShr (x y : RegIdx) (s : State) : Result :=
  .next (writeResultAndFlag x (shrResult (shiftOperand x y s)) (shrOut (shiftOperand x y s)) s)

/-- 8XYE (R151): shift left by one, VF = the bit shifted out. -/
def execShl (x y : RegIdx) (s : State) : Result :=
  .next (writeResultAndFlag x (shlResult (shiftOperand x y s)) (shlOut (shiftOperand x y s)) s)

/-- CXNN (R152): `V[X] <- RND AND NN`, one free byte drawn per execution (R45; log 3). -/
def execRnd (x : RegIdx) (nn : Byte) (s : State) : Result :=
  .next (s.countDraw.setReg x (Config.rndDraw s.draws &&& nn))

end Sys2Proof.Machine
end

