-- ==== Sys2Proof/Machine/ControlFlow.lean ====
section
/-! DEFINITION. The meanings of the control transfers (spec 41_control_flow.md). PC already holds the address of the instruction plus 2
when they run (R102). -/

namespace Sys2Proof.Machine

/-- 00EE (R120): pop PC; SP = 0 raises StackUnderflow (R243). -/
def execRet (s : State) : Result :=
  if h : 0 < s.sp.val then .next (s.popPc h) else raiseFault .stackUnderflow 0 s

/-- 1NNN (R121): `PC <- NNN`. -/
def execJp (nnn : Addr12) (s : State) : Result := .next (s.setPc (addrOf nnn))

/-- 2NNN (R122): push PC, which is the CALL's address plus 2, and jump; SP = 32 raises StackOverflow (R244). -/
def execCall (nnn : Addr12) (s : State) : Result :=
  if h : s.sp.val < 32 then .next ((s.push h s.pc).setPc (addrOf nnn)) else raiseFault .stackOverflow 0 s

/-- 3XNN (R123): skip if VX = NN. -/
def execSeImm (x : RegIdx) (nn : Byte) (s : State) : Result := .next (s.skipIf (s.reg x == nn))

/-- 4XNN (R124): skip if VX is not NN. -/
def execSneImm (x : RegIdx) (nn : Byte) (s : State) : Result := .next (s.skipIf (s.reg x != nn))

/-- 5XY0 (R125): skip if VX = VY. -/
def execSeReg (x y : RegIdx) (s : State) : Result := .next (s.skipIf (s.reg x == s.reg y))

/-- 9XY0 (R126): skip if VX is not VY. -/
def execSneReg (x y : RegIdx) (s : State) : Result := .next (s.skipIf (s.reg x != s.reg y))

/-- BNNN (R128): `PC <- NNN + V0`, no wrap. -/
def execJpV0 (nnn : Addr12) (s : State) : Result := .next (s.setPc (jumpOffsetTarget nnn (s.reg regV0)))

end Sys2Proof.Machine
end

