-- ==== Sys2Proof/Machine/Display.lean ====
section
/-! DEFINITION. The XOR unit and the meanings of CLS and DRW (spec 44_display.md), written as the loops of R191. -/

namespace Sys2Proof.Machine

/-- A display and the collision seen so far. -/
abbrev Drawing := Display × Bool

/-- One set sprite bit: invert the pixel, and note a collision if it was set (R192, R195). -/
def xorPixel (row : Fin 32) (col : Fin 64) (d : Drawing) : Drawing :=
  (Display.setPixel d.1 row col (!Display.pixel d.1 row col), d.2 || Display.pixel d.1 row col)

/-- The bit of a sprite byte that is column `c` of its row: bit 7 is the leftmost (R193, D10; log 10). -/
def spriteBit (b : Byte) (c : Nat) : Bool := b.getLsbD (7 - c)

/-- One sprite row of eight pixels at display row `py`, columns from `x0` on, modulo 64 (R191, R194). -/
def drawRow (b : Byte) (x0 : Nat) (py : Fin 32) (d : Drawing) : Drawing :=
  (List.range 8).foldl (fun d c => if spriteBit b c then xorPixel py (Fin.ofNat 64 (x0 + c)) d else d) d

/-- `n` sprite rows, row `r` the byte `rows r`, display rows from `y0` on, modulo 32 (R191, R194). -/
def drawSprite (rows : Nat → Byte) (n x0 y0 : Nat) (d : Drawing) : Drawing :=
  (List.range n).foldl (fun d r => drawRow (rows r) x0 (Fin.ofNat 32 (y0 + r)) d) d

/-- The whole drawing of DXYN: coordinates and sprite bytes are read first, the collision starts at 0 (R191, R196). -/
def spriteDrawing (x y : RegIdx) (n : Fin 16) (s : State) : Drawing :=
  drawSprite (fun r => s.byteAt (s.ea r)) n.val (s.reg x).toNat (s.reg y).toNat (s.disp, false)

/-- What DXYN writes: the display, VF once at the end, and DrawFlag whatever was drawn (R191, R196, R197). -/
def State.putDrawing (s : State) (d : Drawing) : State :=
  { s with disp := d.1, drawFlag := true }.setReg regVF (flagByte d.2)

/-- 00E0 (R190): every pixel 0; DrawFlag and VF unchanged (C4). -/
def execCls (s : State) : Result := .next { s with disp := Display.blank }

/-- DXYN (R191): N = 0 reads nothing and cannot fault. -/
def execDrw (x y : RegIdx) (n : Fin 16) (s : State) : Result :=
  checkAccess .readFault n.val s (s.putDrawing (spriteDrawing x y n s))

end Sys2Proof.Machine
end

