-- ==== Sys2Proof/Machine/IndexMemory.lean ====
section
/-! DEFINITION. The meanings of the index register and memory instructions (spec 43_index_memory.md). Addresses do not wrap and are all
checked before anything is written (R54, R55, R246). None changes VF but FX65 as a destination; FX33, FX55 and FX65 leave I (log 21). -/

namespace Sys2Proof.Machine

/-- ANNN (R170): `I <- NNN`. -/
def execLdI (nnn : Addr12) (s : State) : Result := .next (s.setI (addrOf nnn))

/-- FX1E (R171): `I <- (I + V[X]) mod 65536`, no flag. -/
def execAddIVx (x : RegIdx) (s : State) : Result := .next (s.setI (s.i + wide (s.reg x)))

/-- FX29 (R172): I to the glyph address of VX. -/
def execLdFVx (x : RegIdx) (s : State) : Result := .next (s.setI (glyphAddr (s.reg x)))

/-- FX33 (R173): the three decimal digits of VX to I, I+1, I+2. -/
def execLdBVx (x : RegIdx) (s : State) : Result :=
  checkAccess .writeFault 3 s (s.storeBytes 3 (bcdDigit (s.reg x)))

/-- FX55 (R176): V0 up to but EXCLUDING VX to I upward; X = 0 stores nothing (R178). -/
def execLdMiVx (x : RegIdx) (s : State) : Result :=
  checkAccess .writeFault x.val s (s.storeBytes x.val (fun k => s.reg (Fin.ofNat 16 k)))

/-- FX65 (R177): V0 through VX, INCLUSIVE, from I upward (R178). -/
def execLdVxMi (x : RegIdx) (s : State) : Result :=
  checkAccess .readFault (x.val + 1) s (s.loadRegs (x.val + 1))

end Sys2Proof.Machine
end

