-- ==== Sys2Proof/Machine/KeysTimers.lean ====
section
/-! DEFINITION. The meanings of the key and timer instructions (spec 45_keys_timers.md). None touches memory, none faults. The tick of the
timers is the cycle's (40_cycle.md R106, R107), after these. -/

namespace Sys2Proof.Machine

/-- EX9E (R210): skip if the key named by VX is pressed. -/
def execSkp (x : RegIdx) (s : State) : Result := .next (s.skipIf (keyPressed (s.reg x) s))

/-- EXA1 (R211): skip if the key named by VX is not pressed. -/
def execSknp (x : RegIdx) (s : State) : Result := .next (s.skipIf (!keyPressed (s.reg x) s))

/-- FX07 (R212): `V[X] <- DT`, before this cycle's tick. -/
def execLdVxDt (x : RegIdx) (s : State) : Result := .next (s.setReg x s.dt)

/-- FX0A (R215, R216): store a key released in this cycle, or rewind PC so that the next cycle fetches FX0A again (R105). -/
def execLdVxK (x : RegIdx) (s : State) : Result :=
  match releasedKeys s with
  | [] => .next s.rewindPc
  | k :: ks => .next (s.countDraw.setReg x (BitVec.ofNat 8 (pickKey (Config.keyDraw s.draws) k ks).val))

/-- FX15 (R217): `DT <- V[X]`. -/
def execLdDtVx (x : RegIdx) (s : State) : Result := .next (s.setDt (s.reg x))

/-- FX18 (R218): `ST <- V[X]`. -/
def execLdStVx (x : RegIdx) (s : State) : Result := .next (s.setSt (s.reg x))

end Sys2Proof.Machine
end

