-- ==== Sys2Proof/Machine/NoOp.lean ====
section
/-! DEFINITION. The meanings of the legacy and unrecognized words (spec 46_noop.md): no effect of their own. -/

namespace Sys2Proof.Machine

/-- 0NNN (R230): nothing; NNN is carried and unused. -/
def execSys (_nnn : Addr12) (s : State) : Result := .next s

/-- Any word of R78 (R231): nothing; the word is carried and unused. -/
def execUnknown (_raw : Word) (s : State) : Result := .next s

end Sys2Proof.Machine
end

