-- ==== Sys2Proof/Machine/Step.lean ====
section
/-! DEFINITION. The step: one cycle (spec 00_scope.md R6, 40_cycle.md R100). -/

namespace Sys2Proof.Machine

/-- One cycle of the core. -/
def step (s : State) : Host.Outcome State Fault Refusal := cycleWith exec s

/-- `s` with the instruction whose bits are `w` at the address the next fetch reads (log 19). -/
def State.withFetchWord (s : State) (nbits w : Nat) : State :=
  s.placeWord s.pc.toNat (bytesOfTableWord nbits w)

end Sys2Proof.Machine
end

