-- ==== Sys2Proof/Machine/HostActions.lean ====
section
/-! DEFINITION. What the host may do to the core outside a cycle (spec 10_state.md R48, 70_reset_and_hazards.md R270 to R274). -/

namespace Sys2Proof.Machine

/-- The largest image, 0xE00 bytes (R273). -/
def maxImage : Nat := memSize - programBase

/-- Reset: every piece of state to its reset value, the only way out of a fault (R248, R270; log 28). -/
def hostReset (_s : State) : State := State.reset

/-- The load before the first cycle: byte `k` of the image to `0x200 + k`, nothing else; a larger image is refused (R272, R273;
log 19). -/
def hostLoadImage (image : List Byte) (s : State) : Result :=
  if image.length ≤ maxImage then .next (s.placeWord programBase image) else .refused (.imageTooLarge image.length)

/-- The host writes `Keys` between cycles (R44, R48). -/
def hostWriteKeys (k : KeyMatrix) (s : State) : State := { s with keys := k }

/-- The host supplies one more key sample, to be taken when its cycle comes (R44; log 2). -/
def hostSupplyKeys (k : KeyMatrix) (s : State) : State := { s with keyInputs := s.keyInputs ++ [k] }

end Sys2Proof.Machine
end

