-- ==== Sys2Proof/Safety.lean ====
section
/-! DEFINITION. The terms claims are stated in: what an instruction may touch, what every cycle keeps, which states are reachable, and
what a safe run is. -/

namespace Sys2Proof.Machine

/-! ### Frames -/

/-- What may change: the registers and the memory addresses listed, and the other pieces of state named true. -/
structure Touched where
  regs : List RegIdx := []
  mem : List Nat := []
  i : Bool := false
  pc : Bool := false
  stack : Bool := false
  dt : Bool := false
  st : Bool := false
  disp : Bool := false
  drawFlag : Bool := false
  fault : Bool := false
  draws : Bool := false

/-- Everything but what `w` names is the same in `t` as in `s`: each register, each byte of memory, each pixel, I, PC, the stack, the
timers, DrawFlag, the fault latch, and (always, as Execute never writes them) Keys, KeysPrev, the beep event and the host's inputs. -/
def Frame (w : Touched) (s t : State) : Prop :=
  (∀ r, r ∉ w.regs → t.reg r = s.reg r) ∧
  (∀ a, a ∉ w.mem → t.byteAt a = s.byteAt a) ∧
  (w.i = false → t.i = s.i) ∧
  (w.pc = false → t.pc = s.pc) ∧
  (w.stack = false → t.sp = s.sp ∧ t.stack = s.stack) ∧
  (w.dt = false → t.dt = s.dt) ∧
  (w.st = false → t.st = s.st) ∧
  (w.disp = false → ∀ row col, t.pixel row col = s.pixel row col) ∧
  (w.drawFlag = false → t.drawFlag = s.drawFlag) ∧
  (w.fault = false → t.fault = s.fault) ∧
  (w.draws = false → t.draws = s.draws) ∧
  t.keys = s.keys ∧ t.keysPrev = s.keysPrev ∧ t.beep = s.beep ∧ t.keyInputs = s.keyInputs

/-- `t` is `s` with a fault recorded and the cycle's advance undone: PC two lower, the latch `(code, that PC, addr)`, nothing else
(R246, R247). -/
def Faulted (code : FaultCode) (addr : Nat) (s t : State) : Prop :=
  t.pc = s.pc - 2 ∧ t.fault.code = code ∧ t.fault.pc = s.pc - 2 ∧ t.fault.addr.toNat = addr ∧
  Frame { pc := true, fault := true } s t

/-- The skip (R127): PC two higher when `c` holds, as it stands otherwise, and nothing else. -/
def SkipsWhen (c : Prop) (s : State) (r : Result) : Prop :=
  ∃ t, r = .next t ∧ (c → t.pc = s.pc + 2) ∧ (¬ c → t.pc = s.pc) ∧ Frame { pc := true } s t

/-- `b` names a key that is pressed in this cycle; a value of 16 or more names none (R210). -/
def KeyHeld (s : State) (b : Byte) : Prop := ∃ k : KeyIdx, b.toNat = k.val ∧ s.keys[k] = true

/-- Key `k` is released in this cycle (R32). -/
def KeyReleased (s : State) (k : KeyIdx) : Prop := s.keysPrev[k] = true ∧ s.keys[k] = false

/-- The `n` bytes from I on are all in range (R54, R55); an empty access is. -/
def AccessInRange (s : State) (n : Nat) : Prop := n = 0 ∨ s.i.toNat + n ≤ 0x1000

/-- The registers an instruction names as a destination (R20, R177). -/
def destRegs : Instr → List RegIdx
  | .ldImm x _ | .addImm x _ | .ldReg x _ | .or x _ | .and x _ | .xor x _ | .rnd x _ => [x]
  | .addReg x _ | .sub x _ | .subn x _ | .shr x _ | .shl x _ => [x]
  | .ldVxDt x | .ldVxK x => [x]
  | .ldVxMi x => (List.finRange 16).filter (fun r => r.val ≤ x.val)
  | .cls | .ret | .sys _ | .jp _ | .call _ | .jpV0 _ | .ldI _ | .unknown _ => []
  | .seImm _ _ | .sneImm _ _ | .seReg _ _ | .sneReg _ _ | .skp _ | .sknp _ => []
  | .drw _ _ _ | .ldDtVx _ | .ldStVx _ | .addIVx _ | .ldFVx _ | .ldBVx _ | .ldMiVx _ => []

/-- The instructions that write VF implicitly (R21). -/
def writesFlag : Instr → Bool
  | .addReg _ _ | .sub _ _ | .subn _ _ | .shr _ _ | .shl _ _ | .drw _ _ _ => true
  | .ldImm _ _ | .addImm _ _ | .ldReg _ _ | .or _ _ | .and _ _ | .xor _ _ | .rnd _ _ => false
  | .ldVxDt _ | .ldVxK _ | .ldVxMi _ => false
  | .cls | .ret | .sys _ | .jp _ | .call _ | .jpV0 _ | .ldI _ | .unknown _ => false
  | .seImm _ _ | .sneImm _ _ | .seReg _ _ | .sneReg _ _ | .skp _ | .sknp _ => false
  | .ldDtVx _ | .ldStVx _ | .addIVx _ | .ldFVx _ | .ldBVx _ | .ldMiVx _ => false

/-! ### The parts of a cycle -/

/-- `t` is `s` once the key sample is taken, with no beep emitted yet (R44, R47, R100): Keys is the next sample of the host, or as it stands
when there is none (log 2), and every other field is that of `s`. -/
def SamplesKeys (s t : State) : Prop :=
  t = { s with keys := t.keys, keyInputs := t.keyInputs, beep := false } ∧
  (s.keyInputs = [] → t.keys = s.keys ∧ t.keyInputs = []) ∧
  (∀ k ks, s.keyInputs = k :: ks → t.keys = k ∧ t.keyInputs = ks)

/-- `t` is `u` once the timers have ticked and the keys are latched (R106 to R108): DT and ST are one lower unless 0, the beep is emitted
when ST goes from 1 to 0, KeysPrev is Keys, and every other field is that of `u`. -/
def TicksAndLatches (u t : State) : Prop :=
  t = { u with dt := t.dt, st := t.st, beep := t.beep, keysPrev := u.keys } ∧
  t.dt.toNat = u.dt.toNat - 1 ∧ t.st.toNat = u.st.toNat - 1 ∧ t.beep = (if u.st = 0 then u.beep else decide (u.st = 1))

/-- The step from `s` executes `i` in the begun cycle with PC two higher, and ends the cycle unless `i` faulted (R100 to R108, R246). -/
def StepExecutes (s : State) (i : Instr) : Prop :=
  step s = match exec i s.beginCycle.advancePc with
    | .next t => .next (if t.fault.code = .none then t.endCycle else t)
    | .fault f => .fault f
    | .refused r => .refused r

/-- What address `a` holds once `bytes` are stored from I on: the stored byte there, or the older one. -/
def byteAfterStore (s : State) (bytes : List Byte) (a : Nat) : Byte :=
  if s.i.toNat ≤ a then bytes.getD (a - s.i.toNat) (s.byteAt a) else s.byteAt a

/-- The word a fetch at `a` reads once `bytes` are stored from I on, high byte first (R51). -/
def wordAfterStore (s : State) (bytes : List Byte) (a : Nat) : Word :=
  wordOfBytes (byteAfterStore s bytes a) (byteAfterStore s bytes (a + 1))

/-- The decimal digits of a byte: hundreds, tens, units (R173). -/
def decimalDigits (b : Byte) : List Byte :=
  [BitVec.ofNat 8 (b.toNat / 100), BitVec.ofNat 8 (b.toNat / 10 % 10), BitVec.ofNat 8 (b.toNat % 10)]

/-- The first `n` registers, V0 first. -/
def firstRegs (s : State) (n : Nat) : List Byte := ((List.finRange 16).take n).map s.reg

/-! ### The display, pixel by pixel -/

/-- The row within a sprite drawn at display row `y0` that falls on `row`, counted modulo 32 (R194). -/
def spriteRowOf (y0 : Nat) (row : Fin 32) : Nat := (row.val + 32 - y0 % 32) % 32

/-- The column within a sprite drawn at display column `x0` that falls on `col`, counted modulo 64 (R194). -/
def spriteColOf (x0 : Nat) (col : Fin 64) : Nat := (col.val + 64 - x0 % 64) % 64

/-- Whether a set bit of an `n`-row sprite drawn at `(x0, y0)` falls on a pixel: rows top first, eight columns, bit 7 leftmost (R193,
log 10). -/
def spriteCovers (rows : Nat → Byte) (n x0 y0 : Nat) (row : Fin 32) (col : Fin 64) : Bool :=
  decide (spriteRowOf y0 row < n) &&
    (decide (spriteColOf x0 col < 8) && (rows (spriteRowOf y0 row)).getLsbD (7 - spriteColOf x0 col))

/-! ### The invariant of the machine -/

/-- The latch agrees with R36, R241 and R247: FaultPC is where PC stands; a memory fault's address is out of range, a stack fault's 0. -/
def latchLegal (l : FaultLatch) (pc : Word) : Prop :=
  match l.code with
  | .none => True
  | .fetchFault | .readFault | .writeFault => l.pc = pc ∧ 0x1000 ≤ l.addr.toNat ∧ l.addr.toNat ≤ 0x1000E
  | .stackUnderflow | .stackOverflow => l.pc = pc ∧ l.addr = 0

/-- What every cycle keeps: memory in its canonical form, inside 0x000 to 0xFFF (R29); PC at most 0x10FE and every stack slot at most
0x1000 (R35, R137); the latch legal. -/
def Invariant (s : State) : Prop :=
  Memory.wf s.mem ∧ s.pc.toNat ≤ 0x10FE ∧ (∀ k : Fin 32, s.stack[k].toNat ≤ 0x1000) ∧ latchLegal s.fault s.pc

/-! ### Runs -/

/-- `t` is reached from `s` by cycles, with the host writing or supplying keys between them (R44, R48, R49). -/
inductive Reaches (s : State) : State → Prop
  /-- No cycle yet. -/
  | refl : Reaches s s
  /-- One more cycle. -/
  | cycle {t u : State} : Reaches s t → step t = .next u → Reaches s u
  /-- The host writes Keys. -/
  | writeKeys {t : State} (k : KeyMatrix) : Reaches s t → Reaches s (hostWriteKeys k t)
  /-- The host supplies a key sample. -/
  | supplyKeys {t : State} (k : KeyMatrix) : Reaches s t → Reaches s (hostSupplyKeys k t)

/-- A state from which the core takes its next cycle (R248). -/
def State.running (s : State) : Prop := s.fault.code = .none

/-- `k` cycles from `s` all complete: none is refused, none faults. -/
def SafeRun (k : Nat) (s : State) : Prop := ∃ t, Host.Core.run Sys2Proof.core k s = .next t ∧ t.running

end Sys2Proof.Machine
end

