-- ==== Sys2Proof/Certificates/Slice0/Obligations.lean ====
section
/-! DEFINITION. The statements for the provers. "log n" is notes/assumptions/n.md; a clause that rests on a decision of the spec or of the
model names it. -/

open Sys2Proof Sys2Proof.Machine

/-! ### Encoding -/

/-- Words written out from the tables of 30_encoding.md R76 and 95_test_vectors.md 2.1, at least one for each of the 16 families
(R72), decode to the instruction they stand for (the patterns are the spec's decision D11, log 11). -/
def Obligations.SampleWordsDecode : Prop :=
  decode 0x00E0#16 = .cls ∧ decode 0x00EE#16 = .ret ∧ decode 0x00E1#16 = .sys 0x0E1#12 ∧
  decode 0x1ABC#16 = .jp 0xABC#12 ∧ decode 0x2ABC#16 = .call 0xABC#12 ∧ decode 0x3A42#16 = .seImm 0xA 0x42#8 ∧
  decode 0x4A42#16 = .sneImm 0xA 0x42#8 ∧ decode 0x9AB0#16 = .sneReg 0xA 0xB ∧ decode 0xBABC#16 = .jpV0 0xABC#12 ∧
  decode 0x5AB0#16 = .seReg 0xA 0xB ∧ decode 0x6005#16 = .ldImm 0x0 0x05#8 ∧ decode 0x7003#16 = .addImm 0x0 0x03#8 ∧
  decode 0x8AB7#16 = .subn 0xA 0xB ∧ decode 0x8ABE#16 = .shl 0xA 0xB ∧ decode 0xAABC#16 = .ldI 0xABC#12 ∧
  decode 0xCA42#16 = .rnd 0xA 0x42#8 ∧ decode 0xDAB5#16 = .drw 0xA 0xB 0x5 ∧ decode 0xEA9E#16 = .skp 0xA ∧
  decode 0xFA65#16 = .ldVxMi 0xA ∧ decode 0xFFFF#16 = .unknown 0xFFFF#16

/-- For each of the 35 instructions and every value of its operands, the word with the fixed bits of R77 and the operands in the places of
R73 and R74 decodes to it (the patterns are the spec's decision D11, log 11). -/
def Obligations.EveryFormatDecodesItsOperands : Prop :=
  (decode 0x00E0#16 = .cls ∧ decode 0x00EE#16 = .ret) ∧
  (∀ nnn : Addr12, (nnn ≠ 0x0E0#12 → nnn ≠ 0x0EE#12 → decode (formNNN 0x0#4 nnn) = .sys nnn) ∧
    decode (formNNN 0x1#4 nnn) = .jp nnn ∧ decode (formNNN 0x2#4 nnn) = .call nnn ∧
    decode (formNNN 0xA#4 nnn) = .ldI nnn ∧ decode (formNNN 0xB#4 nnn) = .jpV0 nnn) ∧
  (∀ (x : RegIdx) (nn : Byte), decode (formXNN 0x3#4 x nn) = .seImm x nn ∧ decode (formXNN 0x4#4 x nn) = .sneImm x nn ∧
    decode (formXNN 0x6#4 x nn) = .ldImm x nn ∧ decode (formXNN 0x7#4 x nn) = .addImm x nn ∧
    decode (formXNN 0xC#4 x nn) = .rnd x nn) ∧
  (∀ x y : RegIdx, decode (formXYN 0x5#4 x y 0x0) = .seReg x y ∧ decode (formXYN 0x9#4 x y 0x0) = .sneReg x y ∧
    decode (formXYN 0x8#4 x y 0x0) = .ldReg x y ∧ decode (formXYN 0x8#4 x y 0x1) = .or x y ∧
    decode (formXYN 0x8#4 x y 0x2) = .and x y ∧ decode (formXYN 0x8#4 x y 0x3) = .xor x y ∧
    decode (formXYN 0x8#4 x y 0x4) = .addReg x y ∧ decode (formXYN 0x8#4 x y 0x5) = .sub x y ∧
    decode (formXYN 0x8#4 x y 0x6) = .shr x y ∧ decode (formXYN 0x8#4 x y 0x7) = .subn x y ∧
    decode (formXYN 0x8#4 x y 0xE) = .shl x y ∧ ∀ n : Fin 16, decode (formXYN 0xD#4 x y n) = .drw x y n) ∧
  (∀ x : RegIdx, decode (formXNN 0xE#4 x 0x9E#8) = .skp x ∧ decode (formXNN 0xE#4 x 0xA1#8) = .sknp x ∧
    decode (formXNN 0xF#4 x 0x07#8) = .ldVxDt x ∧ decode (formXNN 0xF#4 x 0x0A#8) = .ldVxK x ∧
    decode (formXNN 0xF#4 x 0x15#8) = .ldDtVx x ∧ decode (formXNN 0xF#4 x 0x18#8) = .ldStVx x ∧
    decode (formXNN 0xF#4 x 0x1E#8) = .addIVx x ∧ decode (formXNN 0xF#4 x 0x29#8) = .ldFVx x ∧
    decode (formXNN 0xF#4 x 0x33#8) = .ldBVx x ∧ decode (formXNN 0xF#4 x 0x55#8) = .ldMiVx x ∧
    decode (formXNN 0xF#4 x 0x65#8) = .ldVxMi x)

/-- Decode and encode agree: the bytes of every well-formed instruction, whatever follows them, decode to it and leave what follows
(R51, R70, R76). -/
def Obligations.EncodedInstructionDecodesBack : Prop :=
  ∀ (i : Instr) (rest : List Byte), i.wellFormed = true → decodeBytes (encodeBytes i ++ rest) = .ok (i, rest)

/-- Every word decodes to a well-formed instruction (R71), whose encoding is the word itself; the one exception is a word of family 5 or 9
with N not 0 under DECODE_59_LOW_NIBBLE = Ignore, where N is dropped (R79). -/
def Obligations.EveryWordDecodesAndEncodesBack : Prop :=
  ∀ op : Word, (decode op).wellFormed = true ∧
    (encode (decode op) = op ∨
      (Params.decode59LowNibble = .ignore ∧ (family op = 5 ∨ family op = 9) ∧ fieldN op ≠ 0 ∧
        encode (decode op) = formXYN (op.extractLsb' 12 4) (fieldX op) (fieldY op) 0))

/-- The words that decode to UNKNOWN are exactly those R78 lists, under either value of DECODE_59_LOW_NIBBLE (free, D12, log 5), and UNKNOWN
carries the raw word (R231). The set is the spec's decision D13, over the presumed patterns of D11 (log 11). -/
def Obligations.UnrecognizedWordsAreExactlyTheListed : Prop :=
  ∀ (mode : LowNibbleMode) (op raw : Word), decodeWith mode op = .unknown raw ↔
    raw = op ∧
    ((family op = 0x8 ∧ ((0x8 ≤ (fieldN op).val ∧ (fieldN op).val ≤ 0xD) ∨ (fieldN op).val = 0xF)) ∨
     (family op = 0xE ∧ fieldNN op ≠ 0x9E#8 ∧ fieldNN op ≠ 0xA1#8) ∨
     (family op = 0xF ∧ fieldNN op ≠ 0x07#8 ∧ fieldNN op ≠ 0x0A#8 ∧ fieldNN op ≠ 0x15#8 ∧ fieldNN op ≠ 0x18#8 ∧
       fieldNN op ≠ 0x1E#8 ∧ fieldNN op ≠ 0x29#8 ∧ fieldNN op ≠ 0x33#8 ∧ fieldNN op ≠ 0x55#8 ∧ fieldNN op ≠ 0x65#8) ∨
     (mode = .strict ∧ (family op = 0x5 ∨ family op = 0x9) ∧ fieldN op ≠ 0))

/-- DECODE_59_LOW_NIBBLE (R79): Strict decodes 5XYN and 9XYN with N not 0 as UNKNOWN, Ignore as the skip with the same X and Y, and this
machine does one of the two (which is free, log 5). -/
def Obligations.LowNibbleParameterDecidesFamilies5And9 : Prop :=
  ∀ op : Word, fieldN op ≠ 0 →
    (family op = 5 → decodeWith .strict op = .unknown op ∧ decodeWith .ignore op = .seReg (fieldX op) (fieldY op) ∧
      (decode op = .unknown op ∨ decode op = .seReg (fieldX op) (fieldY op))) ∧
    (family op = 9 → decodeWith .strict op = .unknown op ∧ decodeWith .ignore op = .sneReg (fieldX op) (fieldY op) ∧
      (decode op = .unknown op ∨ decode op = .sneReg (fieldX op) (fieldY op)))

/-! ### Control transfer -/

/-- JP (R121): 1NNN sets PC to NNN and does nothing else. From a target in range, odd ones too (D6, log 17), the next step executes the word
there; a target above 0xFFE faults at the next fetch (D3, log 14, log 15); a jump to its own address loops, the timers ticking in every cycle
of the loop. (The patterns are D11, log 11.) -/
def Obligations.JumpSetsPc : Prop :=
  ∀ (nnn : Addr12) (s : State), decode (formNNN 0x1#4 nnn) = .jp nnn ∧
    (∃ t, exec (.jp nnn) s = .next t ∧ t.pc.toNat = nnn.toNat ∧ Frame { pc := true } s t ∧
      (nnn.toNat ≤ 0xFFE → ∀ u : State, u.running → u.pc = t.pc → StepExecutes u (decode (u.wordAt nnn.toNat))) ∧
      (0xFFE < nnn.toNat → ∀ u : State, u.running → u.pc = t.pc → ∃ w, step u = .next w ∧ w.fault.code = .fetchFault)) ∧
    (s.running → s.pc.toNat ≤ 0xFFE → nnn.toNat = s.pc.toNat → decode (s.wordAt s.pc.toNat) = .jp nnn →
      ∃ t, step s = .next t ∧ t.running ∧ t.pc = s.pc ∧ t.wordAt t.pc.toNat = s.wordAt s.pc.toNat ∧
        t.dt.toNat = s.dt.toNat - 1 ∧ t.st.toNat = s.st.toNat - 1)

/-- CALL with SP below 32 (R122): PC, already the CALL's address plus 2, goes to S[SP], SP rises by 1, PC becomes NNN, and no other slot
changes. (That SP = 32 faults is StackFaultsAreRecorded.) -/
def Obligations.CallPushesReturnAddress : Prop :=
  ∀ (nnn : Addr12) (s : State), s.sp.val < 32 → ∃ t, exec (.call nnn) s = .next t ∧ t.pc.toNat = nnn.toNat ∧
    t.sp.val = s.sp.val + 1 ∧ (∀ k : Fin 32, t.stack[k] = if k.val = s.sp.val then s.pc else s.stack[k]) ∧
    Frame { pc := true, stack := true } s t

/-- RET with SP above 0 (R120): SP falls by 1, PC becomes S[SP], and every slot, the popped one too, keeps its value (R25, D25, log 24).
(That SP = 0 faults is StackFaultsAreRecorded.) -/
def Obligations.ReturnPopsPc : Prop :=
  ∀ s : State, 0 < s.sp.val → ∃ t, exec .ret s = .next t ∧ t.sp.val + 1 = s.sp.val ∧
    (∀ k : Fin 32, k.val = t.sp.val → t.pc = s.stack[k]) ∧ t.stack = s.stack ∧ Frame { pc := true, stack := true } s t

/-- A RET that finds the stack as a CALL left it comes back to the instruction after the CALL, with SP as before it (R120, R122). -/
def Obligations.CallThenReturnComesBack : Prop :=
  ∀ (nnn : Addr12) (s : State), s.sp.val < 32 → ∃ t, exec (.call nnn) s = .next t ∧
    ∀ u : State, u.sp = t.sp → u.stack = t.stack → ∃ w, exec .ret u = .next w ∧ w.pc = s.pc ∧ w.sp = s.sp

/-- The skip (R127): 3XNN, 4XNN, 5XY0, 9XY0, EX9E and EXA1 advance PC by an extra 2 exactly when their comparison holds, and change nothing
else. -/
def Obligations.SkipsAdvanceByTwo : Prop :=
  ∀ (x y : RegIdx) (nn : Byte) (s : State),
    SkipsWhen (s.reg x = nn) s (exec (.seImm x nn) s) ∧ SkipsWhen (s.reg x ≠ nn) s (exec (.sneImm x nn) s) ∧
    SkipsWhen (s.reg x = s.reg y) s (exec (.seReg x y) s) ∧ SkipsWhen (s.reg x ≠ s.reg y) s (exec (.sneReg x y) s) ∧
    SkipsWhen (KeyHeld s (s.reg x)) s (exec (.skp x) s) ∧ SkipsWhen (¬ KeyHeld s (s.reg x)) s (exec (.sknp x) s)

/-- JP V0 (R128): BNNN sets PC to NNN plus V0, unsigned and without wrap, and does nothing else; a target above 0xFFE faults at the next
fetch (D3, log 14, log 15). (The pattern is the spec's decision D11, log 11.) -/
def Obligations.JumpPlusV0 : Prop :=
  ∀ (nnn : Addr12) (s : State), decode (formNNN 0xB#4 nnn) = .jpV0 nnn ∧
    ∃ t, exec (.jpV0 nnn) s = .next t ∧ t.pc.toNat = nnn.toNat + (s.reg 0).toNat ∧ Frame { pc := true } s t ∧
      (0xFFE < nnn.toNat + (s.reg 0).toNat → ∀ u : State, u.running → u.pc = t.pc →
        ∃ w, step u = .next w ∧ w.fault.code = .fetchFault)

/-- RET with SP = 0 and CALL with SP = 32 record StackUnderflow and StackOverflow with address 0 and change nothing else but PC, which goes
back to the instruction (R243, R244, R246, R247: the spec's decisions D4, D5, D30; log 14, log 16). -/
def Obligations.StackFaultsAreRecorded : Prop :=
  ∀ (nnn : Addr12) (s : State),
    (s.sp.val = 0 → ∃ t, exec .ret s = .next t ∧ Faulted .stackUnderflow 0 s t) ∧
    (s.sp.val = 32 → ∃ t, exec (.call nnn) s = .next t ∧ Faulted .stackOverflow 0 s t)

/-! ### Registers and ALU -/

/-- LD VX, NN (R141): 6XNN sets VX to NN and does nothing else. -/
def Obligations.LoadImmediateSetsRegister : Prop :=
  ∀ (x : RegIdx) (nn : Byte) (s : State), decode (formXNN 0x6#4 x nn) = .ldImm x nn ∧
    ∃ t, exec (.ldImm x nn) s = .next t ∧ t.reg x = nn ∧ Frame { regs := [x] } s t

/-- ADD VX, NN (R142): 7XNN adds NN to VX modulo 256 and writes no flag: VF changes only as the destination. -/
def Obligations.AddImmediateWrapsWithoutFlag : Prop :=
  ∀ (x : RegIdx) (nn : Byte) (s : State), decode (formXNN 0x7#4 x nn) = .addImm x nn ∧
    ∃ t, exec (.addImm x nn) s = .next t ∧ (t.reg x).toNat = ((s.reg x).toNat + nn.toNat) % 256 ∧ Frame { regs := [x] } s t

/-- 8XY0 to 8XY3 (R143 to R146): copy, OR, AND and XOR into VX; VF is unchanged unless it is VX (the spec's decision D22, log 22). -/
def Obligations.CopyAndLogicWriteOnlyVx : Prop :=
  ∀ (x y : RegIdx) (s : State),
    (∃ t, exec (.ldReg x y) s = .next t ∧ t.reg x = s.reg y ∧ Frame { regs := [x] } s t) ∧
    (∃ t, exec (.or x y) s = .next t ∧ t.reg x = s.reg x ||| s.reg y ∧ Frame { regs := [x] } s t) ∧
    (∃ t, exec (.and x y) s = .next t ∧ t.reg x = s.reg x &&& s.reg y ∧ Frame { regs := [x] } s t) ∧
    (∃ t, exec (.xor x y) s = .next t ∧ t.reg x = s.reg x ^^^ s.reg y ∧ Frame { regs := [x] } s t)

/-- 8XY4 (R147): the sum modulo 256 in VX and the carry in VF; with X = F, VF holds the carry (FlagLast: R140, D15, log 6). -/
def Obligations.AddSetsCarry : Prop :=
  ∀ (x y : RegIdx) (s : State), ∃ t, exec (.addReg x y) s = .next t ∧
    (x ≠ 15 → (t.reg x).toNat = ((s.reg x).toNat + (s.reg y).toNat) % 256) ∧
    t.reg 15 = (if 255 < (s.reg x).toNat + (s.reg y).toNat then 1 else 0) ∧ Frame { regs := [x, 15] } s t

/-- 8XY5 and 8XY7 (R148, R149): the difference modulo 256 in VX and not-borrow in VF; with X = F, VF holds the flag (D15, log 6). -/
def Obligations.SubtractSetsNotBorrow : Prop :=
  ∀ (x y : RegIdx) (s : State),
    (∃ t, exec (.sub x y) s = .next t ∧
      (x ≠ 15 → (t.reg x).toNat = ((s.reg x).toNat + 256 - (s.reg y).toNat) % 256) ∧
      t.reg 15 = (if (s.reg y).toNat ≤ (s.reg x).toNat then 1 else 0) ∧ Frame { regs := [x, 15] } s t) ∧
    (∃ t, exec (.subn x y) s = .next t ∧
      (x ≠ 15 → (t.reg x).toNat = ((s.reg y).toNat + 256 - (s.reg x).toNat) % 256) ∧
      t.reg 15 = (if (s.reg x).toNat ≤ (s.reg y).toNat then 1 else 0) ∧ Frame { regs := [x, 15] } s t)

/-- 8XY6 and 8XYE (R150, R151): VX shifted by one in place, whatever VY holds (D14, log 7), and the bit shifted out in VF; with X = F, VF
holds that bit (D15, log 6). -/
def Obligations.ShiftsSetTheBitShiftedOut : Prop :=
  ∀ (x y : RegIdx) (s : State),
    (∃ t, exec (.shr x y) s = .next t ∧ (x ≠ 15 → (t.reg x).toNat = (s.reg x).toNat / 2) ∧
      (t.reg 15).toNat = (s.reg x).toNat % 2 ∧ Frame { regs := [x, 15] } s t) ∧
    (∃ t, exec (.shl x y) s = .next t ∧ (x ≠ 15 → (t.reg x).toNat = 2 * (s.reg x).toNat % 256) ∧
      (t.reg 15).toNat = (s.reg x).toNat / 128 ∧ Frame { regs := [x, 15] } s t)

/-- CXNN (R152): VX becomes a drawn byte AND NN, one draw consumed; the byte is the free value of the draw (R45, log 3), so nothing is known
of it but that with NN = 0 the result is 0. -/
def Obligations.RandomByteIsMasked : Prop :=
  ∀ (x : RegIdx) (nn : Byte) (s : State), ∃ t, exec (.rnd x nn) s = .next t ∧
    t.reg x = Config.rndDraw s.draws &&& nn ∧ (nn = 0 → t.reg x = 0) ∧ t.draws = s.draws + 1 ∧
    Frame { regs := [x], draws := true } s t

/-! ### Index register and memory -/

/-- ANNN and FX1E (R170, R171): I becomes NNN, or I + VX modulo 65536; no flag, and an I above 0xFFF is no fault.
(The patterns are the spec's decision D11, log 11.) -/
def Obligations.IndexIsSetAndAdvanced : Prop :=
  ∀ (x : RegIdx) (nnn : Addr12) (s : State),
    (decode (formNNN 0xA#4 nnn) = .ldI nnn ∧
      ∃ t, exec (.ldI nnn) s = .next t ∧ t.i.toNat = nnn.toNat ∧ Frame { i := true } s t) ∧
    (decode (formXNN 0xF#4 x 0x1E#8) = .addIVx x ∧
      ∃ t, exec (.addIVx x) s = .next t ∧ t.i.toNat = (s.i.toNat + (s.reg x).toNat) % 65536 ∧ Frame { i := true } s t)

/-- FX29 (R172): I becomes five times all of VX (FullValue, the spec's choice between two sentences of its source: C2, D17, log 8), for a
digit the address of its glyph (R60). -/
def Obligations.GlyphAddressIsFiveTimesTheValue : Prop :=
  ∀ (x : RegIdx) (s : State), ∃ t, exec (.ldFVx x) s = .next t ∧ t.i.toNat = 5 * (s.reg x).toNat ∧ Frame { i := true } s t

/-- FX33 in range (R173): the hundreds, tens and units of VX at I, I+1 and I+2, every other byte and I unchanged. -/
def Obligations.DecimalDigitsAreStored : Prop :=
  ∀ (x : RegIdx) (s : State), AccessInRange s 3 → ∃ t, exec (.ldBVx x) s = .next t ∧
    (t.byteAt (s.ea 0)).toNat = (s.reg x).toNat / 100 ∧ (t.byteAt (s.ea 1)).toNat = (s.reg x).toNat / 10 % 10 ∧
    (t.byteAt (s.ea 2)).toNat = (s.reg x).toNat % 10 ∧ Frame { mem := [s.ea 0, s.ea 1, s.ea 2] } s t

/-- FX55 in range (R176): V0 up to but excluding VX at I upward, every other byte and I unchanged (D18, log 21). -/
def Obligations.RegistersAreStoredExclusive : Prop :=
  ∀ (x : RegIdx) (s : State), AccessInRange s x.val → ∃ t, exec (.ldMiVx x) s = .next t ∧
    (∀ k : RegIdx, k.val < x.val → t.byteAt (s.ea k.val) = s.reg k) ∧ Frame { mem := (List.range x.val).map s.ea } s t

/-- FX65 in range (R177): V0 through VX from I upward, every other register and I unchanged (D18, log 21). -/
def Obligations.RegistersAreLoadedInclusive : Prop :=
  ∀ (x : RegIdx) (s : State), AccessInRange s (x.val + 1) → ∃ t, exec (.ldVxMi x) s = .next t ∧
    (∀ k : RegIdx, k.val ≤ x.val → t.reg k = s.byteAt (s.ea k.val)) ∧
    Frame { regs := (List.finRange 16).filter (fun r => r.val ≤ x.val) } s t

/-- The asymmetry (R178): FX55 and a later FX65 with the same X and I, the memory as FX55 left it, restore V0 to V[X-1] and load V[X] from
the byte after them, which FX55 did not write; Store(0) writes zero bytes and Restore(0) loads register 0. -/
def Obligations.StoreThenRestoreIsAsymmetric : Prop :=
  ∀ (x : RegIdx) (s : State), AccessInRange s (x.val + 1) → ∃ t, exec (.ldMiVx x) s = .next t ∧
    (x = 0 → ∀ a, t.byteAt a = s.byteAt a) ∧
    ∀ t' : State, t'.i = s.i → (∀ a, t'.byteAt a = t.byteAt a) → ∃ u, exec (.ldVxMi x) t' = .next u ∧
      (∀ k : RegIdx, k.val < x.val → u.reg k = s.reg k) ∧ u.reg x = s.byteAt (s.ea x.val) ∧
      (∀ k : RegIdx, x.val < k.val → u.reg k = t'.reg k)

/-- FX33, FX55, FX65 and DXYN with a byte above 0xFFF record the fault of R241 at the lowest such address and change nothing else but PC,
which goes back to the instruction (R242, R245 to R247: the spec's decisions D3, D5, D7, D30, D31; log 14, log 15). -/
def Obligations.OutOfRangeAccessIsRecorded : Prop :=
  ∀ (x y : RegIdx) (n : Fin 16) (s : State),
    (¬ AccessInRange s 3 → ∃ t, exec (.ldBVx x) s = .next t ∧ Faulted .writeFault (max s.i.toNat 0x1000) s t) ∧
    (¬ AccessInRange s x.val → ∃ t, exec (.ldMiVx x) s = .next t ∧ Faulted .writeFault (max s.i.toNat 0x1000) s t) ∧
    (¬ AccessInRange s (x.val + 1) → ∃ t, exec (.ldVxMi x) s = .next t ∧ Faulted .readFault (max s.i.toNat 0x1000) s t) ∧
    (¬ AccessInRange s n.val → ∃ t, exec (.drw x y n) s = .next t ∧ Faulted .readFault (max s.i.toNat 0x1000) s t)

/-- Fetch sees every earlier write (R63, R281). After FX55 or FX33, in any later cycle of a running core whose memory is as the store left it,
the step executes the word at PC in that memory, high byte first: of two stored bytes, of a stored and an older one, or of two older ones. -/
def Obligations.FetchSeesStoredBytes : Prop :=
  ∀ (x : RegIdx) (s : State),
    (AccessInRange s x.val → ∃ t, exec (.ldMiVx x) s = .next t ∧ ∀ u : State, u.running → u.pc.toNat ≤ 0xFFE →
      (∀ a, u.byteAt a = t.byteAt a) → StepExecutes u (decode (wordAfterStore s (firstRegs s x.val) u.pc.toNat))) ∧
    (AccessInRange s 3 → ∃ t, exec (.ldBVx x) s = .next t ∧ ∀ u : State, u.running → u.pc.toNat ≤ 0xFFE →
      (∀ a, u.byteAt a = t.byteAt a) → StepExecutes u (decode (wordAfterStore s (decimalDigits (s.reg x)) u.pc.toNat)))

/-! ### Display -/

/-- CLS (R190): every pixel 0, nothing else; DrawFlag and VF are unchanged (C4). -/
def Obligations.ClearDisplayClearsEveryPixel : Prop :=
  ∀ s : State, ∃ t, exec .cls s = .next t ∧ (∀ row col, t.pixel row col = false) ∧ Frame { disp := true } s t

/-- DXYN in range (R191 to R194, R196): a pixel is inverted exactly when a set bit of the sprite at I falls on it, coordinates modulo 64 and
32, bit 7 leftmost (D10, log 10), X and Y read before VF is written (D16, log 23); VF is 1 if a covered pixel was set and 0 otherwise;
DrawFlag is set; nothing else changes. -/
def Obligations.DrawInvertsExactlyTheCoveredPixels : Prop :=
  ∀ (x y : RegIdx) (n : Fin 16) (s : State), AccessInRange s n.val →
    let covers := spriteCovers (fun r => s.byteAt (s.ea r)) n.val (s.reg x).toNat (s.reg y).toNat
    ∃ t, exec (.drw x y n) s = .next t ∧
      (∀ row col, t.pixel row col = (s.pixel row col ^^ covers row col)) ∧
      ((∃ row col, covers row col = true ∧ s.pixel row col = true) → t.reg 15 = 1) ∧
      ((∀ row col, covers row col = true → s.pixel row col = false) → t.reg 15 = 0) ∧
      t.drawFlag = true ∧ Frame { regs := [15], disp := true, drawFlag := true } s t

/-- Collision (R195, the second draw read as the spec's resolution C6 reads it): VF is 1 exactly when the draw turned at least one set pixel off, and 0 otherwise. Drawing the same sprite again at the
same coordinates gives back the display, and its VF is 1 exactly when the first draw turned at least one pixel on. -/
def Obligations.CollisionAndDrawingTwice : Prop :=
  ∀ (x y : RegIdx) (n : Fin 16) (s : State), AccessInRange s n.val → ∃ t, exec (.drw x y n) s = .next t ∧
    (t.reg 15 = 0 ∨ t.reg 15 = 1) ∧
    (t.reg 15 = 1 ↔ ∃ row col, s.pixel row col = true ∧ t.pixel row col = false) ∧
    (t.reg x = s.reg x → t.reg y = s.reg y → ∃ u, exec (.drw x y n) t = .next u ∧
      (∀ row col, u.pixel row col = s.pixel row col) ∧
      (u.reg 15 = 0 ∨ u.reg 15 = 1) ∧
      (u.reg 15 = 1 ↔ ∃ row col, s.pixel row col = false ∧ t.pixel row col = true))

/-- DrawFlag (R197): every DXYN that does not fault sets it, N = 0 and a draw that changes no pixel too, and no step of the core clears it. -/
def Obligations.DrawFlagIsSetAndNeverCleared : Prop :=
  (∀ (x y : RegIdx) (n : Fin 16) (s : State), AccessInRange s n.val → ∃ t, exec (.drw x y n) s = .next t ∧ t.drawFlag = true) ∧
  (∀ s t : State, step s = .next t → s.drawFlag = true → t.drawFlag = true)

/-! ### Keys and timers -/

/-- FX07, FX15 and FX18 (R212, R217, R218): VX takes DT as it stands before the tick; DT and ST take VX. -/
def Obligations.TimerRegisterMoves : Prop :=
  ∀ (x : RegIdx) (s : State),
    (∃ t, exec (.ldVxDt x) s = .next t ∧ t.reg x = s.dt ∧ Frame { regs := [x] } s t) ∧
    (∃ t, exec (.ldDtVx x) s = .next t ∧ t.dt = s.reg x ∧ Frame { dt := true } s t) ∧
    (∃ t, exec (.ldStVx x) s = .next t ∧ t.st = s.reg x ∧ Frame { st := true } s t)

/-- FX0A (R215, R216): when some key is released, VX takes the number of a released key (which one of several is free, D20, log 4); when none
is, PC goes back by 2 and nothing else changes. -/
def Obligations.KeyWaitTakesAReleasedKeyOrRewinds : Prop :=
  ∀ (x : RegIdx) (s : State),
    ((∃ k, KeyReleased s k) → ∃ t k, exec (.ldVxK x) s = .next t ∧ KeyReleased s k ∧ (t.reg x).toNat = k.val ∧
      Frame { regs := [x], draws := true } s t) ∧
    ((∀ k, ¬ KeyReleased s k) → ∃ t, exec (.ldVxK x) s = .next t ∧ t.pc = s.pc - 2 ∧ Frame { pc := true } s t)

/-! ### No-ops -/

/-- SYS and UNKNOWN (R230, R231): nothing changes. -/
def Obligations.LegacyAndUnrecognizedWordsDoNothing : Prop :=
  ∀ (nnn : Addr12) (raw : Word) (s : State), exec (.sys nnn) s = .next s ∧ exec (.unknown raw) s = .next s

/-! ### The cycle -/

/-- A step of a running core whose two bytes at PC decode to `i` executes `i` in the begun cycle with PC advanced by 2, and then ends the cycle
if `i` did not fault (R100 to R105, R246). Beginning a cycle changes Keys, the host's samples and the beep alone (R44, log 2, log 18), ending
it DT, ST, the beep and KeysPrev alone (R106 to R108): no register, I, PC, stack slot, byte, pixel, flag or latch. -/
def Obligations.StepRunsTheDecodedInstruction : Prop :=
  (∀ (s : State) (i : Instr), s.running → s.pc.toNat ≤ 0xFFE →
    decodeBytes [s.byteAt s.pc.toNat, s.byteAt (s.pc.toNat + 1)] = .ok (i, []) →
    s.beginCycle.advancePc = { s.beginCycle with pc := s.pc + 2 } ∧ StepExecutes s i) ∧
  (∀ s : State, SamplesKeys s s.beginCycle) ∧ (∀ u : State, TicksAndLatches u u.endCycle)

/-- A fetch with a byte above 0xFFF records FetchFault at the first such address, with FaultPC and PC where PC was, and changes nothing else
but the key sample (R101, R241, R246, R247: the spec's decisions D3, D5, D30; log 14, log 27). -/
def Obligations.FetchOutOfRangeIsRecorded : Prop :=
  ∀ s : State, s.running → 0xFFE < s.pc.toNat → ∃ t, step s = .next t ∧ t.fault.code = .fetchFault ∧ t.fault.pc = s.pc ∧
    t.fault.addr.toNat = max s.pc.toNat 0x1000 ∧ Frame { fault := true } s.beginCycle t

/-- A stopped core takes no cycle: the step answers no next state (R248, D5, D29; that it answers the fault `stopped` is log 14). -/
def Obligations.StoppedCoreTakesNoCycle : Prop :=
  ∀ s : State, s.fault.code ≠ .none → step s = .fault (.stopped s.fault.code)

/-- A step has one of three outcomes (R109): it completes, it faults with PC where it was, or, from a stopped core only, it does not start.
No running core is ever without a next state. -/
def Obligations.CycleHasThreeOutcomes : Prop :=
  ∀ s : State, (¬ s.running ∧ ∀ t, step s ≠ .next t) ∨
    (s.running ∧ ∃ t, step s = .next t ∧ (t.running ∨ (¬ t.running ∧ t.pc = s.pc)))

/-- A cycle that faults writes the latch alone (R246, R247, D5): PC is the faulting instruction's address and FaultPC the same, no beep is
emitted, and all else, timers and KeysPrev too, is as it was once the keys were sampled (log 27). -/
def Obligations.FaultingCycleWritesOnlyTheLatch : Prop :=
  ∀ s t : State, step s = .next t → t.fault.code ≠ .none →
    t.fault.pc = s.pc ∧ t.beep = false ∧ Frame { fault := true } s.beginCycle t ∧ s.fault.code = .none

/-- Delay timer tick (R106): every completed cycle lowers by 1, if above 0, the DT its instruction left; so the value FX15 writes is lowered
in the same cycle, and FX07 reads DT before the tick. -/
def Obligations.DelayTimerTicksAfterExecute : Prop :=
  ∀ s t : State, step s = .next t → t.running → ∃ i u, i = decode (s.wordAt s.pc.toNat) ∧
    exec i s.beginCycle.advancePc = .next u ∧ t.dt.toNat = u.dt.toNat - 1 ∧
    (∀ x, i = .ldDtVx x → t.dt.toNat = (s.reg x).toNat - 1) ∧ (∀ x, i = .ldVxDt x → t.reg x = s.dt) ∧
    ((∀ x, i ≠ .ldDtVx x) → t.dt.toNat = s.dt.toNat - 1)

/-- Sound timer tick and beep (R107): every completed cycle lowers by 1, if above 0, the ST its instruction left, and emits the beep exactly
when that was 1; so FX18 with 1 beeps in its own cycle and leaves 0. -/
def Obligations.SoundTimerTicksAndBeeps : Prop :=
  ∀ s t : State, step s = .next t → t.running → ∃ i u, i = decode (s.wordAt s.pc.toNat) ∧
    exec i s.beginCycle.advancePc = .next u ∧ t.st.toNat = u.st.toNat - 1 ∧ (t.beep = true ↔ u.st = 1) ∧
    (∀ x, i = .ldStVx x → t.st.toNat = (s.reg x).toNat - 1 ∧ (t.beep = true ↔ s.reg x = 1)) ∧
    ((∀ x, i ≠ .ldStVx x) → t.st.toNat = s.st.toNat - 1 ∧ (t.beep = true ↔ s.st = 1))

/-- Key latch (R108, D19, log 20): a completed cycle leaves KeysPrev equal to its Keys; a faulting one leaves it as it was. -/
def Obligations.KeysAreLatchedByCompletedCycles : Prop :=
  ∀ s t : State, step s = .next t → (t.running → t.keysPrev = t.keys) ∧ (¬ t.running → t.keysPrev = s.keysPrev)

/-- The core never writes Keys (R31): no instruction changes it, and after a step it is the sample the host supplied for that cycle, or as it
stood when there was none (R44, log 2). -/
def Obligations.CoreNeverWritesKeys : Prop :=
  (∀ (i : Instr) (s t : State), exec i s = .next t → t.keys = s.keys) ∧
  (∀ s t : State, step s = .next t →
    (s.keyInputs = [] → t.keys = s.keys ∧ t.keyInputs = []) ∧
    (∀ k ks, s.keyInputs = k :: ks → t.keys = k ∧ t.keyInputs = ks))

/-- The key wait, cycle by cycle (R105, R215, 95_test_vectors.md E8): at FX0A, a cycle with no key released completes with PC, every register
and every byte as before, so the next cycle fetches it again; a cycle in which exactly one key is released stores its number and goes on. -/
def Obligations.KeyWaitRepeatsUntilARelease : Prop :=
  ∀ (x : RegIdx) (s : State), s.running → s.pc.toNat ≤ 0xFFE → decode (s.wordAt s.pc.toNat) = .ldVxK x →
    ((∀ k, ¬ KeyReleased s.sampleKeys k) → ∃ t, step s = .next t ∧ t.running ∧ t.pc = s.pc ∧ (∀ r, t.reg r = s.reg r) ∧
      (∀ a, t.byteAt a = s.byteAt a) ∧ t.keysPrev = s.sampleKeys.keys) ∧
    (∀ k, KeyReleased s.sampleKeys k → (∀ k', KeyReleased s.sampleKeys k' → k' = k) → ∃ t, step s = .next t ∧ t.running ∧
      t.pc = s.pc + 2 ∧ (t.reg x).toNat = k.val ∧ (∀ r, r ≠ x → t.reg r = s.reg r))

/-! ### The machine as a whole -/

/-- The invariant holds at reset. -/
def Obligations.ResetMeetsTheInvariant : Prop := Invariant State.reset

/-- Every step keeps the invariant: memory stays in canonical form inside 0x000 to 0xFFF, PC at most 0x10FE and every stack slot at most
0x1000 (R137), and the fault latch legal (R36, R241, R247). -/
def Obligations.EveryStepKeepsTheInvariant : Prop :=
  ∀ s t : State, Invariant s → step s = .next t → Invariant t

/-- Whatever image is loaded after reset (log 19) and whatever keys the host gives between cycles (log 2, log 28), every state reached meets
the invariant. -/
def Obligations.EveryReachableStateMeetsTheInvariant : Prop :=
  ∀ (image : List Byte) (s t : State), hostLoadImage image State.reset = .next s → Reaches s t → Invariant t

/-- The reset values (R38, R270): those the source gives, and those the spec decides (I, KeysPrev, the display, DrawFlag, memory outside the
font: D8, log 12; the font's bytes, as R60 lists them glyph by glyph: D9, log 9). -/
def Obligations.ResetValues : Prop :=
  (∀ r, State.reset.reg r = 0) ∧ State.reset.i = 0 ∧ State.reset.pc = 0x200#16 ∧ State.reset.sp = 0 ∧
  (∀ k : Fin 32, State.reset.stack[k] = 0) ∧ State.reset.dt = 0 ∧ State.reset.st = 0 ∧
  (∀ k : KeyIdx, State.reset.keys[k] = false ∧ State.reset.keysPrev[k] = false) ∧
  (List.range 0x50).map State.reset.byteAt =
    [0xF0, 0x90, 0x90, 0x90, 0xF0] ++ [0x20, 0x60, 0x20, 0x20, 0x70] ++ [0xF0, 0x10, 0xF0, 0x80, 0xF0] ++ [0xF0, 0x10, 0xF0, 0x10, 0xF0] ++
    [0x90, 0x90, 0xF0, 0x10, 0x10] ++ [0xF0, 0x80, 0xF0, 0x10, 0xF0] ++ [0xF0, 0x80, 0xF0, 0x90, 0xF0] ++ [0xF0, 0x10, 0x20, 0x40, 0x40] ++
    [0xF0, 0x90, 0xF0, 0x90, 0xF0] ++ [0xF0, 0x90, 0xF0, 0x10, 0xF0] ++ [0xF0, 0x90, 0xF0, 0x90, 0x90] ++ [0xE0, 0x90, 0xE0, 0x90, 0xE0] ++
    [0xF0, 0x80, 0x80, 0x80, 0xF0] ++ [0xE0, 0x90, 0x90, 0x90, 0xE0] ++ [0xF0, 0x80, 0xF0, 0x80, 0xF0] ++ [0xF0, 0x80, 0xF0, 0x80, 0x80] ∧
  (∀ a, 0x50 ≤ a → State.reset.byteAt a = 0) ∧
  (∀ row col, State.reset.pixel row col = false) ∧ State.reset.drawFlag = false ∧ State.reset.fault.code.toBits = 0 ∧
  State.reset.beep = false

/-- Only CLS and DXYN change the display (R30, R192). -/
def Obligations.OnlyClearAndDrawChangeTheDisplay : Prop :=
  ∀ (i : Instr) (s t : State), exec i s = .next t → i ≠ .cls → (∀ x y n, i ≠ .drw x y n) →
    ∀ row col, t.pixel row col = s.pixel row col

/-- A register changes only if the instruction names it as a destination, or it is VF and the instruction is 8XY4, 8XY5, 8XY6, 8XY7, 8XYE or
DXYN, the ones that write VF implicitly (R20, R21). -/
def Obligations.OnlyDestinationsAndTheFlagChange : Prop :=
  ∀ (i : Instr) (s t : State) (r : RegIdx), exec i s = .next t → r ∉ destRegs i → (r = 15 → writesFlag i = false) →
    t.reg r = s.reg r

/-- Only ANNN, FX1E and FX29 change I (R24, D18, log 21). -/
def Obligations.OnlyThreeInstructionsChangeI : Prop :=
  ∀ (i : Instr) (s t : State), exec i s = .next t → (∀ nnn, i ≠ .ldI nnn) → (∀ x, i ≠ .addIVx x) → (∀ x, i ≠ .ldFVx x) →
    t.i = s.i

/-- Only CALL writes a stack slot, and only CALL and RET change SP (R25, R26). -/
def Obligations.OnlyCallAndReturnTouchTheStack : Prop :=
  ∀ (i : Instr) (s t : State), exec i s = .next t → (∀ nnn, i ≠ .call nnn) → t.stack = s.stack ∧ (i ≠ .ret → t.sp = s.sp)

/-- Only FX33 and FX55 change memory, and only the bytes they store: three, and X, from I on (R50, R173, R176). -/
def Obligations.OnlyStoresChangeMemory : Prop :=
  ∀ (i : Instr) (s t : State) (a : Nat), exec i s = .next t →
    (∀ x, i = .ldBVx x → a ∉ [s.ea 0, s.ea 1, s.ea 2]) → (∀ x, i = .ldMiVx x → a ∉ (List.range x.val).map s.ea) →
    t.byteAt a = s.byteAt a

/-- No instruction and no condition faults but those of the table of R241 (the spec's decisions D3, D4, D30). -/
def Obligations.OnlyTheTabledFaultsAreRaised : Prop :=
  ∀ (i : Instr) (s t : State), exec i s = .next t → t.fault ≠ s.fault →
    (i = .ret ∧ s.sp.val = 0 ∧ t.fault.code = .stackUnderflow) ∨
    (∃ nnn, i = .call nnn ∧ s.sp.val = 32 ∧ t.fault.code = .stackOverflow) ∨
    (∃ x y n, i = .drw x y n ∧ ¬ AccessInRange s n.val ∧ t.fault.code = .readFault) ∨
    (∃ x, i = .ldVxMi x ∧ ¬ AccessInRange s (x.val + 1) ∧ t.fault.code = .readFault) ∨
    (∃ x, i = .ldBVx x ∧ ¬ AccessInRange s 3 ∧ t.fault.code = .writeFault) ∨
    (∃ x, i = .ldMiVx x ∧ ¬ AccessInRange s x.val ∧ t.fault.code = .writeFault)

/-- KeysPrev is observed by FX0A alone (R32, R37): any other instruction does the same whatever it holds, and carries it along. -/
def Obligations.OnlyTheKeyWaitObservesKeysPrev : Prop :=
  ∀ (i : Instr) (s t : State) (k : KeyMatrix), (∀ x, i ≠ .ldVxK x) → exec i s = .next t →
    exec i { s with keysPrev := k } = .next { t with keysPrev := k }

/-- No instruction reads ST or DrawFlag (R28, R33): with other values of both, every instruction does the same to all the rest. -/
def Obligations.NoInstructionReadsSoundTimerOrDrawFlag : Prop :=
  ∀ (i : Instr) (s t : State) (b : Byte) (d : Bool), exec i s = .next t →
    ∃ t', exec i { s with st := b, drawFlag := d } = .next t' ∧ { t' with st := t.st, drawFlag := t.drawFlag } = t

/-! ### Loading -/

/-- The load (R272): byte k of an image that fits goes to 0x200 + k, and nothing else changes; the host's other acts, giving keys, write no
memory. -/
def Obligations.ImageIsCopiedFrom0x200 : Prop :=
  ∀ (image : List Byte) (keys : KeyMatrix) (s : State),
    (image.length ≤ 0xE00 → ∃ t, hostLoadImage image s = .next t ∧
      (∀ (k : Nat) (hk : k < image.length), t.byteAt (0x200 + k) = image[k]) ∧
      (∀ a, (a < 0x200 ∨ 0x200 + image.length ≤ a) → t.byteAt a = s.byteAt a) ∧
      Frame { mem := (List.range image.length).map (0x200 + ·) } s t) ∧
    (∀ a, (hostWriteKeys keys s).byteAt a = s.byteAt a ∧ (hostSupplyKeys keys s).byteAt a = s.byteAt a)

/-- An image that does not fit is refused, so no core starts (R273, D23, log 19). -/
def Obligations.OversizeImageIsRefused : Prop :=
  ∀ (image : List Byte) (s : State), 0xE00 < image.length → hostLoadImage image s = .refused (.imageTooLarge image.length)
end

