-- ==== Sys2Proof/Laws/Memory.lean ====
section
/-! SUPPORT. Memory: a read after a write, the canonical form, equal memories are equal data, and the range check. -/

namespace Sys2Proof.Machine

/-! ### A read after a write -/

theorem Memory.read_erase (m : List Host.Cell) (a a' : Nat) :
    Memory.read (Memory.erase m a) a' = if a' = a then Memory.initialByte a' else Memory.read m a' := by
  induction m with
  | nil => simp [Memory.erase, Memory.read]
  | cons c m ih =>
    simp only [Memory.erase, List.filter_cons] at ih ⊢
    by_cases hc : c.1 = a
    · simp only [hc, bne_self_eq_false, Bool.false_eq_true, if_false, ih, Memory.read]
      by_cases h : a' = a
      · simp [h]
      · simp [h, Ne.symm h]
    · simp only [bne_iff_ne, ne_eq, hc, not_false_eq_true, if_true, Memory.read, ih]
      by_cases h : a' = a
      · subst h; simp [hc]
      · simp [h]

theorem Memory.read_insert (m : List Host.Cell) (a : Nat) (b : Byte) (a' : Nat) (hm : ∀ c ∈ m, c.1 ≠ a) :
    Memory.read (Memory.insert m a b) a' = if a' = a then b else Memory.read m a' := by
  induction m with
  | nil => simp [Memory.insert, Memory.read, eq_comm]
  | cons c m ih =>
    have hc : c.1 ≠ a := hm c (by simp)
    have ih := ih (fun d hd => hm d (by simp [hd]))
    simp only [Memory.insert]
    split
    · simp [Memory.read, eq_comm]
    · simp only [Memory.read, ih]
      by_cases h : a' = a
      · subst h; simp [hc]
      · simp [h]

theorem Memory.mem_erase {m : List Host.Cell} {a : Nat} {c : Host.Cell} :
    c ∈ Memory.erase m a ↔ c ∈ m ∧ c.1 ≠ a := by
  simp [Memory.erase]

/-- Reading after writing one byte inside memory, whatever the memory (R11, R61). -/
theorem Memory.read_write (m : List Host.Cell) (a : Nat) (b : Byte) (a' : Nat) (ha : a < memSize) :
    Memory.read (Memory.write m a b) a' = if a' = a then b else Memory.read m a' := by
  have hn : ¬ memSize ≤ a := by omega
  unfold Memory.write
  rw [if_neg hn]
  split
  · next hb =>
    rw [Memory.read_erase]
    by_cases h : a' = a
    · simp [h, hb]
    · simp [h]
  · rw [Memory.read_insert _ _ _ _ (fun c hc => (Memory.mem_erase.1 hc).2), Memory.read_erase]
    by_cases h : a' = a <;> simp [h]

theorem Memory.write_outside (m : List Host.Cell) (a : Nat) (b : Byte) (ha : memSize ≤ a) :
    Memory.write m a b = m := by
  simp [Memory.write, ha]

/-- A write leaves every other address alone, in range or not. -/
theorem Memory.read_write_other (m : List Host.Cell) (a : Nat) (b : Byte) (a' : Nat) (h : a' ≠ a) :
    Memory.read (Memory.write m a b) a' = Memory.read m a' := by
  by_cases ha : a < memSize
  · rw [Memory.read_write m a b a' ha, if_neg h]
  · rw [Memory.write_outside m a b (by omega)]

/-! ### The canonical form -/

theorem Memory.wf_nil : Memory.wf [] := ⟨List.Pairwise.nil, fun c hc => absurd hc (by simp)⟩

theorem Memory.wf_erase {m : List Host.Cell} (h : Memory.wf m) (a : Nat) : Memory.wf (Memory.erase m a) :=
  ⟨h.1.filter _, fun c hc => h.2 c (Memory.mem_erase.1 hc).1⟩

theorem Memory.mem_insert {m : List Host.Cell} {a : Nat} {b : Byte} {c : Host.Cell} :
    c ∈ Memory.insert m a b ↔ c = (a, b) ∨ c ∈ m := by
  induction m with
  | nil => simp [Memory.insert]
  | cons d m ih =>
    simp only [Memory.insert]
    split
    · simp
    · simp only [List.mem_cons, ih]; tauto

theorem Memory.pairwise_insert {m : List Host.Cell} (a : Nat) (b : Byte)
    (h : m.Pairwise (fun c d => c.1 < d.1)) (hm : ∀ c ∈ m, c.1 ≠ a) :
    (Memory.insert m a b).Pairwise (fun c d => c.1 < d.1) := by
  induction m with
  | nil => simp [Memory.insert]
  | cons c m ih =>
    obtain ⟨hc, hp⟩ := List.pairwise_cons.1 h
    have hca : c.1 ≠ a := hm c (by simp)
    simp only [Memory.insert]
    split
    · next hlt =>
      refine List.pairwise_cons.2 ⟨fun d hd => ?_, h⟩
      rcases List.mem_cons.1 hd with rfl | hd
      · exact hlt
      · exact Nat.lt_trans hlt (hc d hd)
    · next hlt =>
      refine List.pairwise_cons.2 ⟨fun d hd => ?_, ih hp (fun d hd => hm d (by simp [hd]))⟩
      rcases Memory.mem_insert.1 hd with rfl | hd
      · show c.1 < a; omega
      · exact hc d hd

/-- Every write keeps the canonical form. -/
theorem Memory.wf_write {m : List Host.Cell} (h : Memory.wf m) (a : Nat) (b : Byte) :
    Memory.wf (Memory.write m a b) := by
  unfold Memory.write
  split
  · exact h
  · next ha =>
    split
    · exact Memory.wf_erase h a
    · next hb =>
      refine ⟨Memory.pairwise_insert a b (Memory.wf_erase h a).1 (fun c hc => (Memory.mem_erase.1 hc).2), fun c hc => ?_⟩
      rcases Memory.mem_insert.1 hc with rfl | hc
      · exact ⟨by show a < memSize; omega, hb⟩
      · exact (Memory.wf_erase h a).2 c hc

theorem Memory.read_of_mem {m : List Host.Cell} (h : Memory.wf m) {c : Host.Cell} (hc : c ∈ m) :
    Memory.read m c.1 = c.2 := by
  induction m with
  | nil => simp at hc
  | cons d m ih =>
    obtain ⟨hd, hp⟩ := List.pairwise_cons.1 h.1
    simp only [Memory.read]
    rcases List.mem_cons.1 hc with rfl | hc
    · simp
    · rw [if_neg (by have := hd c hc; omega)]
      exact ih ⟨hp, fun e he => h.2 e (by simp [he])⟩ hc

theorem Memory.read_of_not_mem {m : List Host.Cell} {a : Nat} (h : ∀ c ∈ m, c.1 ≠ a) :
    Memory.read m a = Memory.initialByte a := by
  induction m with
  | nil => rfl
  | cons d m ih =>
    simp only [Memory.read]
    rw [if_neg (h d (by simp)), ih (fun c hc => h c (by simp [hc]))]

/-- In canonical form, the entries are exactly the addresses that do not read as after reset. -/
theorem Memory.mem_iff {m : List Host.Cell} (h : Memory.wf m) (c : Host.Cell) :
    c ∈ m ↔ Memory.read m c.1 = c.2 ∧ c.2 ≠ Memory.initialByte c.1 := by
  refine ⟨fun hc => ⟨Memory.read_of_mem h hc, (h.2 c hc).2⟩, fun ⟨hr, hn⟩ => ?_⟩
  by_cases hx : ∃ d ∈ m, d.1 = c.1
  · obtain ⟨d, hd, hdc⟩ := hx
    have := Memory.read_of_mem h hd
    rw [hdc, hr] at this
    rwa [show c = d from Prod.ext hdc.symm this]
  · exact absurd (hr.symm.trans (Memory.read_of_not_mem fun d hd he => hx ⟨d, hd, he⟩)) hn

/-- Two memories in canonical form that read alike are the same list. -/
theorem Memory.eq_of_read {m m' : List Host.Cell} (h : Memory.wf m) (h' : Memory.wf m')
    (hr : ∀ a, Memory.read m a = Memory.read m' a) : m = m' := by
  have irr : ∀ {l : List Host.Cell}, l.Pairwise (fun c d => c.1 < d.1) → l.Nodup := fun hl =>
    hl.imp (fun {c d} hlt => by rintro rfl; exact Nat.lt_irrefl _ hlt)
  have hp : m.Perm m' := (List.perm_ext_iff_of_nodup (irr h.1) (irr h'.1)).2 fun c => by
    rw [Memory.mem_iff h, Memory.mem_iff h', hr]
  exact hp.eq_of_pairwise (fun c d _ _ h1 h2 => absurd h1 (by omega)) h.1 h'.1

/-! ### The range check -/

theorem firstOutOfRange_none (base n : Nat) : firstOutOfRange base n = none ↔ (n = 0 ∨ base + n ≤ memSize) := by
  induction n with
  | zero => simp [firstOutOfRange]
  | succ k ih =>
    simp only [firstOutOfRange]
    cases h : firstOutOfRange base k with
    | some a =>
      have : ¬ (k = 0 ∨ base + k ≤ memSize) := by rw [← ih, h]; simp
      simp only [reduceCtorEq, false_iff, false_or]; omega
    | none =>
      have hk := ih.1 h
      by_cases hr : memSize ≤ base + k
      · simp only [if_pos hr, reduceCtorEq, false_iff, false_or]; omega
      · simp only [if_neg hr, true_iff]; omega

/-- The address recorded is the lowest out-of-range one (R245). -/
theorem firstOutOfRange_some (base n a : Nat) :
    firstOutOfRange base n = some a ↔ (n ≠ 0 ∧ memSize < base + n ∧ a = max base memSize) := by
  induction n with
  | zero => simp [firstOutOfRange]
  | succ k ih =>
    simp only [firstOutOfRange]
    cases h : firstOutOfRange base k with
    | some b =>
      rw [h] at ih
      have hn : ¬ (k = 0 ∨ base + k ≤ memSize) := by rw [← firstOutOfRange_none, h]; simp
      simp only [Option.some.injEq] at ih ⊢
      rw [ih]; omega
    | none =>
      have hk := (firstOutOfRange_none base k).1 h
      by_cases hr : memSize ≤ base + k
      · simp only [if_pos hr, Option.some.injEq]; omega
      · simp only [if_neg hr, reduceCtorEq, false_iff]; omega

end Sys2Proof.Machine
end

