-- ==== Sys2Proof/Laws/State.lean ====
section
/-! SUPPORT. What each update of the state changes and leaves: one lemma for each field and update, and the same through the accessors
`reg`, `byteAt` and `pixel`. -/

namespace Sys2Proof.Machine

/-! #### setReg -/

@[simp] theorem State.setReg_i (s : State) (x : RegIdx) (b : Byte) : (s.setReg x b).i = s.i := rfl
@[simp] theorem State.setReg_pc (s : State) (x : RegIdx) (b : Byte) : (s.setReg x b).pc = s.pc := rfl
@[simp] theorem State.setReg_sp (s : State) (x : RegIdx) (b : Byte) : (s.setReg x b).sp = s.sp := rfl
@[simp] theorem State.setReg_stack (s : State) (x : RegIdx) (b : Byte) : (s.setReg x b).stack = s.stack := rfl
@[simp] theorem State.setReg_dt (s : State) (x : RegIdx) (b : Byte) : (s.setReg x b).dt = s.dt := rfl
@[simp] theorem State.setReg_st (s : State) (x : RegIdx) (b : Byte) : (s.setReg x b).st = s.st := rfl
@[simp] theorem State.setReg_mem (s : State) (x : RegIdx) (b : Byte) : (s.setReg x b).mem = s.mem := rfl
@[simp] theorem State.setReg_disp (s : State) (x : RegIdx) (b : Byte) : (s.setReg x b).disp = s.disp := rfl
@[simp] theorem State.setReg_drawFlag (s : State) (x : RegIdx) (b : Byte) : (s.setReg x b).drawFlag = s.drawFlag := rfl
@[simp] theorem State.setReg_keys (s : State) (x : RegIdx) (b : Byte) : (s.setReg x b).keys = s.keys := rfl
@[simp] theorem State.setReg_keysPrev (s : State) (x : RegIdx) (b : Byte) : (s.setReg x b).keysPrev = s.keysPrev := rfl
@[simp] theorem State.setReg_fault (s : State) (x : RegIdx) (b : Byte) : (s.setReg x b).fault = s.fault := rfl
@[simp] theorem State.setReg_beep (s : State) (x : RegIdx) (b : Byte) : (s.setReg x b).beep = s.beep := rfl
@[simp] theorem State.setReg_keyInputs (s : State) (x : RegIdx) (b : Byte) : (s.setReg x b).keyInputs = s.keyInputs := rfl
@[simp] theorem State.setReg_draws (s : State) (x : RegIdx) (b : Byte) : (s.setReg x b).draws = s.draws := rfl
@[simp] theorem State.setReg_byteAt (s : State) (x : RegIdx) (b : Byte) (a' : Nat) : (s.setReg x b).byteAt a' = s.byteAt a' := rfl
@[simp] theorem State.setReg_pixel (s : State) (x : RegIdx) (b : Byte) (row : Fin 32) (col : Fin 64) : (s.setReg x b).pixel row col = s.pixel row col := rfl

/-! #### setI -/

@[simp] theorem State.setI_v (s : State) (w : Word) : (s.setI w).v = s.v := rfl
@[simp] theorem State.setI_i (s : State) (w : Word) : (s.setI w).i = w := rfl
@[simp] theorem State.setI_pc (s : State) (w : Word) : (s.setI w).pc = s.pc := rfl
@[simp] theorem State.setI_sp (s : State) (w : Word) : (s.setI w).sp = s.sp := rfl
@[simp] theorem State.setI_stack (s : State) (w : Word) : (s.setI w).stack = s.stack := rfl
@[simp] theorem State.setI_dt (s : State) (w : Word) : (s.setI w).dt = s.dt := rfl
@[simp] theorem State.setI_st (s : State) (w : Word) : (s.setI w).st = s.st := rfl
@[simp] theorem State.setI_mem (s : State) (w : Word) : (s.setI w).mem = s.mem := rfl
@[simp] theorem State.setI_disp (s : State) (w : Word) : (s.setI w).disp = s.disp := rfl
@[simp] theorem State.setI_drawFlag (s : State) (w : Word) : (s.setI w).drawFlag = s.drawFlag := rfl
@[simp] theorem State.setI_keys (s : State) (w : Word) : (s.setI w).keys = s.keys := rfl
@[simp] theorem State.setI_keysPrev (s : State) (w : Word) : (s.setI w).keysPrev = s.keysPrev := rfl
@[simp] theorem State.setI_fault (s : State) (w : Word) : (s.setI w).fault = s.fault := rfl
@[simp] theorem State.setI_beep (s : State) (w : Word) : (s.setI w).beep = s.beep := rfl
@[simp] theorem State.setI_keyInputs (s : State) (w : Word) : (s.setI w).keyInputs = s.keyInputs := rfl
@[simp] theorem State.setI_draws (s : State) (w : Word) : (s.setI w).draws = s.draws := rfl
@[simp] theorem State.setI_reg (s : State) (w : Word) (r' : RegIdx) : (s.setI w).reg r' = s.reg r' := rfl
@[simp] theorem State.setI_byteAt (s : State) (w : Word) (a' : Nat) : (s.setI w).byteAt a' = s.byteAt a' := rfl
@[simp] theorem State.setI_pixel (s : State) (w : Word) (row : Fin 32) (col : Fin 64) : (s.setI w).pixel row col = s.pixel row col := rfl

/-! #### setPc -/

@[simp] theorem State.setPc_v (s : State) (w : Word) : (s.setPc w).v = s.v := rfl
@[simp] theorem State.setPc_i (s : State) (w : Word) : (s.setPc w).i = s.i := rfl
@[simp] theorem State.setPc_pc (s : State) (w : Word) : (s.setPc w).pc = w := rfl
@[simp] theorem State.setPc_sp (s : State) (w : Word) : (s.setPc w).sp = s.sp := rfl
@[simp] theorem State.setPc_stack (s : State) (w : Word) : (s.setPc w).stack = s.stack := rfl
@[simp] theorem State.setPc_dt (s : State) (w : Word) : (s.setPc w).dt = s.dt := rfl
@[simp] theorem State.setPc_st (s : State) (w : Word) : (s.setPc w).st = s.st := rfl
@[simp] theorem State.setPc_mem (s : State) (w : Word) : (s.setPc w).mem = s.mem := rfl
@[simp] theorem State.setPc_disp (s : State) (w : Word) : (s.setPc w).disp = s.disp := rfl
@[simp] theorem State.setPc_drawFlag (s : State) (w : Word) : (s.setPc w).drawFlag = s.drawFlag := rfl
@[simp] theorem State.setPc_keys (s : State) (w : Word) : (s.setPc w).keys = s.keys := rfl
@[simp] theorem State.setPc_keysPrev (s : State) (w : Word) : (s.setPc w).keysPrev = s.keysPrev := rfl
@[simp] theorem State.setPc_fault (s : State) (w : Word) : (s.setPc w).fault = s.fault := rfl
@[simp] theorem State.setPc_beep (s : State) (w : Word) : (s.setPc w).beep = s.beep := rfl
@[simp] theorem State.setPc_keyInputs (s : State) (w : Word) : (s.setPc w).keyInputs = s.keyInputs := rfl
@[simp] theorem State.setPc_draws (s : State) (w : Word) : (s.setPc w).draws = s.draws := rfl
@[simp] theorem State.setPc_reg (s : State) (w : Word) (r' : RegIdx) : (s.setPc w).reg r' = s.reg r' := rfl
@[simp] theorem State.setPc_byteAt (s : State) (w : Word) (a' : Nat) : (s.setPc w).byteAt a' = s.byteAt a' := rfl
@[simp] theorem State.setPc_pixel (s : State) (w : Word) (row : Fin 32) (col : Fin 64) : (s.setPc w).pixel row col = s.pixel row col := rfl

/-! #### advancePc -/

@[simp] theorem State.advancePc_v (s : State) : (s.advancePc).v = s.v := rfl
@[simp] theorem State.advancePc_i (s : State) : (s.advancePc).i = s.i := rfl
@[simp] theorem State.advancePc_pc (s : State) : (s.advancePc).pc = s.pc + 2 := rfl
@[simp] theorem State.advancePc_sp (s : State) : (s.advancePc).sp = s.sp := rfl
@[simp] theorem State.advancePc_stack (s : State) : (s.advancePc).stack = s.stack := rfl
@[simp] theorem State.advancePc_dt (s : State) : (s.advancePc).dt = s.dt := rfl
@[simp] theorem State.advancePc_st (s : State) : (s.advancePc).st = s.st := rfl
@[simp] theorem State.advancePc_mem (s : State) : (s.advancePc).mem = s.mem := rfl
@[simp] theorem State.advancePc_disp (s : State) : (s.advancePc).disp = s.disp := rfl
@[simp] theorem State.advancePc_drawFlag (s : State) : (s.advancePc).drawFlag = s.drawFlag := rfl
@[simp] theorem State.advancePc_keys (s : State) : (s.advancePc).keys = s.keys := rfl
@[simp] theorem State.advancePc_keysPrev (s : State) : (s.advancePc).keysPrev = s.keysPrev := rfl
@[simp] theorem State.advancePc_fault (s : State) : (s.advancePc).fault = s.fault := rfl
@[simp] theorem State.advancePc_beep (s : State) : (s.advancePc).beep = s.beep := rfl
@[simp] theorem State.advancePc_keyInputs (s : State) : (s.advancePc).keyInputs = s.keyInputs := rfl
@[simp] theorem State.advancePc_draws (s : State) : (s.advancePc).draws = s.draws := rfl
@[simp] theorem State.advancePc_reg (s : State) (r' : RegIdx) : (s.advancePc).reg r' = s.reg r' := rfl
@[simp] theorem State.advancePc_byteAt (s : State) (a' : Nat) : (s.advancePc).byteAt a' = s.byteAt a' := rfl
@[simp] theorem State.advancePc_pixel (s : State) (row : Fin 32) (col : Fin 64) : (s.advancePc).pixel row col = s.pixel row col := rfl

/-! #### rewindPc -/

@[simp] theorem State.rewindPc_v (s : State) : (s.rewindPc).v = s.v := rfl
@[simp] theorem State.rewindPc_i (s : State) : (s.rewindPc).i = s.i := rfl
@[simp] theorem State.rewindPc_pc (s : State) : (s.rewindPc).pc = s.pc - 2 := rfl
@[simp] theorem State.rewindPc_sp (s : State) : (s.rewindPc).sp = s.sp := rfl
@[simp] theorem State.rewindPc_stack (s : State) : (s.rewindPc).stack = s.stack := rfl
@[simp] theorem State.rewindPc_dt (s : State) : (s.rewindPc).dt = s.dt := rfl
@[simp] theorem State.rewindPc_st (s : State) : (s.rewindPc).st = s.st := rfl
@[simp] theorem State.rewindPc_mem (s : State) : (s.rewindPc).mem = s.mem := rfl
@[simp] theorem State.rewindPc_disp (s : State) : (s.rewindPc).disp = s.disp := rfl
@[simp] theorem State.rewindPc_drawFlag (s : State) : (s.rewindPc).drawFlag = s.drawFlag := rfl
@[simp] theorem State.rewindPc_keys (s : State) : (s.rewindPc).keys = s.keys := rfl
@[simp] theorem State.rewindPc_keysPrev (s : State) : (s.rewindPc).keysPrev = s.keysPrev := rfl
@[simp] theorem State.rewindPc_fault (s : State) : (s.rewindPc).fault = s.fault := rfl
@[simp] theorem State.rewindPc_beep (s : State) : (s.rewindPc).beep = s.beep := rfl
@[simp] theorem State.rewindPc_keyInputs (s : State) : (s.rewindPc).keyInputs = s.keyInputs := rfl
@[simp] theorem State.rewindPc_draws (s : State) : (s.rewindPc).draws = s.draws := rfl
@[simp] theorem State.rewindPc_reg (s : State) (r' : RegIdx) : (s.rewindPc).reg r' = s.reg r' := rfl
@[simp] theorem State.rewindPc_byteAt (s : State) (a' : Nat) : (s.rewindPc).byteAt a' = s.byteAt a' := rfl
@[simp] theorem State.rewindPc_pixel (s : State) (row : Fin 32) (col : Fin 64) : (s.rewindPc).pixel row col = s.pixel row col := rfl

/-! #### setDt -/

@[simp] theorem State.setDt_v (s : State) (b : Byte) : (s.setDt b).v = s.v := rfl
@[simp] theorem State.setDt_i (s : State) (b : Byte) : (s.setDt b).i = s.i := rfl
@[simp] theorem State.setDt_pc (s : State) (b : Byte) : (s.setDt b).pc = s.pc := rfl
@[simp] theorem State.setDt_sp (s : State) (b : Byte) : (s.setDt b).sp = s.sp := rfl
@[simp] theorem State.setDt_stack (s : State) (b : Byte) : (s.setDt b).stack = s.stack := rfl
@[simp] theorem State.setDt_dt (s : State) (b : Byte) : (s.setDt b).dt = b := rfl
@[simp] theorem State.setDt_st (s : State) (b : Byte) : (s.setDt b).st = s.st := rfl
@[simp] theorem State.setDt_mem (s : State) (b : Byte) : (s.setDt b).mem = s.mem := rfl
@[simp] theorem State.setDt_disp (s : State) (b : Byte) : (s.setDt b).disp = s.disp := rfl
@[simp] theorem State.setDt_drawFlag (s : State) (b : Byte) : (s.setDt b).drawFlag = s.drawFlag := rfl
@[simp] theorem State.setDt_keys (s : State) (b : Byte) : (s.setDt b).keys = s.keys := rfl
@[simp] theorem State.setDt_keysPrev (s : State) (b : Byte) : (s.setDt b).keysPrev = s.keysPrev := rfl
@[simp] theorem State.setDt_fault (s : State) (b : Byte) : (s.setDt b).fault = s.fault := rfl
@[simp] theorem State.setDt_beep (s : State) (b : Byte) : (s.setDt b).beep = s.beep := rfl
@[simp] theorem State.setDt_keyInputs (s : State) (b : Byte) : (s.setDt b).keyInputs = s.keyInputs := rfl
@[simp] theorem State.setDt_draws (s : State) (b : Byte) : (s.setDt b).draws = s.draws := rfl
@[simp] theorem State.setDt_reg (s : State) (b : Byte) (r' : RegIdx) : (s.setDt b).reg r' = s.reg r' := rfl
@[simp] theorem State.setDt_byteAt (s : State) (b : Byte) (a' : Nat) : (s.setDt b).byteAt a' = s.byteAt a' := rfl
@[simp] theorem State.setDt_pixel (s : State) (b : Byte) (row : Fin 32) (col : Fin 64) : (s.setDt b).pixel row col = s.pixel row col := rfl

/-! #### setSt -/

@[simp] theorem State.setSt_v (s : State) (b : Byte) : (s.setSt b).v = s.v := rfl
@[simp] theorem State.setSt_i (s : State) (b : Byte) : (s.setSt b).i = s.i := rfl
@[simp] theorem State.setSt_pc (s : State) (b : Byte) : (s.setSt b).pc = s.pc := rfl
@[simp] theorem State.setSt_sp (s : State) (b : Byte) : (s.setSt b).sp = s.sp := rfl
@[simp] theorem State.setSt_stack (s : State) (b : Byte) : (s.setSt b).stack = s.stack := rfl
@[simp] theorem State.setSt_dt (s : State) (b : Byte) : (s.setSt b).dt = s.dt := rfl
@[simp] theorem State.setSt_st (s : State) (b : Byte) : (s.setSt b).st = b := rfl
@[simp] theorem State.setSt_mem (s : State) (b : Byte) : (s.setSt b).mem = s.mem := rfl
@[simp] theorem State.setSt_disp (s : State) (b : Byte) : (s.setSt b).disp = s.disp := rfl
@[simp] theorem State.setSt_drawFlag (s : State) (b : Byte) : (s.setSt b).drawFlag = s.drawFlag := rfl
@[simp] theorem State.setSt_keys (s : State) (b : Byte) : (s.setSt b).keys = s.keys := rfl
@[simp] theorem State.setSt_keysPrev (s : State) (b : Byte) : (s.setSt b).keysPrev = s.keysPrev := rfl
@[simp] theorem State.setSt_fault (s : State) (b : Byte) : (s.setSt b).fault = s.fault := rfl
@[simp] theorem State.setSt_beep (s : State) (b : Byte) : (s.setSt b).beep = s.beep := rfl
@[simp] theorem State.setSt_keyInputs (s : State) (b : Byte) : (s.setSt b).keyInputs = s.keyInputs := rfl
@[simp] theorem State.setSt_draws (s : State) (b : Byte) : (s.setSt b).draws = s.draws := rfl
@[simp] theorem State.setSt_reg (s : State) (b : Byte) (r' : RegIdx) : (s.setSt b).reg r' = s.reg r' := rfl
@[simp] theorem State.setSt_byteAt (s : State) (b : Byte) (a' : Nat) : (s.setSt b).byteAt a' = s.byteAt a' := rfl
@[simp] theorem State.setSt_pixel (s : State) (b : Byte) (row : Fin 32) (col : Fin 64) : (s.setSt b).pixel row col = s.pixel row col := rfl

/-! #### setByte -/

@[simp] theorem State.setByte_v (s : State) (a : Nat) (b : Byte) : (s.setByte a b).v = s.v := rfl
@[simp] theorem State.setByte_i (s : State) (a : Nat) (b : Byte) : (s.setByte a b).i = s.i := rfl
@[simp] theorem State.setByte_pc (s : State) (a : Nat) (b : Byte) : (s.setByte a b).pc = s.pc := rfl
@[simp] theorem State.setByte_sp (s : State) (a : Nat) (b : Byte) : (s.setByte a b).sp = s.sp := rfl
@[simp] theorem State.setByte_stack (s : State) (a : Nat) (b : Byte) : (s.setByte a b).stack = s.stack := rfl
@[simp] theorem State.setByte_dt (s : State) (a : Nat) (b : Byte) : (s.setByte a b).dt = s.dt := rfl
@[simp] theorem State.setByte_st (s : State) (a : Nat) (b : Byte) : (s.setByte a b).st = s.st := rfl
@[simp] theorem State.setByte_mem (s : State) (a : Nat) (b : Byte) : (s.setByte a b).mem = Memory.write s.mem a b := rfl
@[simp] theorem State.setByte_disp (s : State) (a : Nat) (b : Byte) : (s.setByte a b).disp = s.disp := rfl
@[simp] theorem State.setByte_drawFlag (s : State) (a : Nat) (b : Byte) : (s.setByte a b).drawFlag = s.drawFlag := rfl
@[simp] theorem State.setByte_keys (s : State) (a : Nat) (b : Byte) : (s.setByte a b).keys = s.keys := rfl
@[simp] theorem State.setByte_keysPrev (s : State) (a : Nat) (b : Byte) : (s.setByte a b).keysPrev = s.keysPrev := rfl
@[simp] theorem State.setByte_fault (s : State) (a : Nat) (b : Byte) : (s.setByte a b).fault = s.fault := rfl
@[simp] theorem State.setByte_beep (s : State) (a : Nat) (b : Byte) : (s.setByte a b).beep = s.beep := rfl
@[simp] theorem State.setByte_keyInputs (s : State) (a : Nat) (b : Byte) : (s.setByte a b).keyInputs = s.keyInputs := rfl
@[simp] theorem State.setByte_draws (s : State) (a : Nat) (b : Byte) : (s.setByte a b).draws = s.draws := rfl
@[simp] theorem State.setByte_reg (s : State) (a : Nat) (b : Byte) (r' : RegIdx) : (s.setByte a b).reg r' = s.reg r' := rfl
@[simp] theorem State.setByte_pixel (s : State) (a : Nat) (b : Byte) (row : Fin 32) (col : Fin 64) : (s.setByte a b).pixel row col = s.pixel row col := rfl

/-! #### push -/

@[simp] theorem State.push_v (s : State) (h : s.sp.val < 32) (w : Word) : (s.push h w).v = s.v := rfl
@[simp] theorem State.push_i (s : State) (h : s.sp.val < 32) (w : Word) : (s.push h w).i = s.i := rfl
@[simp] theorem State.push_pc (s : State) (h : s.sp.val < 32) (w : Word) : (s.push h w).pc = s.pc := rfl
@[simp] theorem State.push_sp (s : State) (h : s.sp.val < 32) (w : Word) : (s.push h w).sp = ⟨s.sp.val + 1, Nat.succ_lt_succ h⟩ := rfl
@[simp] theorem State.push_stack (s : State) (h : s.sp.val < 32) (w : Word) : (s.push h w).stack = s.stack.set s.sp.val w h := rfl
@[simp] theorem State.push_dt (s : State) (h : s.sp.val < 32) (w : Word) : (s.push h w).dt = s.dt := rfl
@[simp] theorem State.push_st (s : State) (h : s.sp.val < 32) (w : Word) : (s.push h w).st = s.st := rfl
@[simp] theorem State.push_mem (s : State) (h : s.sp.val < 32) (w : Word) : (s.push h w).mem = s.mem := rfl
@[simp] theorem State.push_disp (s : State) (h : s.sp.val < 32) (w : Word) : (s.push h w).disp = s.disp := rfl
@[simp] theorem State.push_drawFlag (s : State) (h : s.sp.val < 32) (w : Word) : (s.push h w).drawFlag = s.drawFlag := rfl
@[simp] theorem State.push_keys (s : State) (h : s.sp.val < 32) (w : Word) : (s.push h w).keys = s.keys := rfl
@[simp] theorem State.push_keysPrev (s : State) (h : s.sp.val < 32) (w : Word) : (s.push h w).keysPrev = s.keysPrev := rfl
@[simp] theorem State.push_fault (s : State) (h : s.sp.val < 32) (w : Word) : (s.push h w).fault = s.fault := rfl
@[simp] theorem State.push_beep (s : State) (h : s.sp.val < 32) (w : Word) : (s.push h w).beep = s.beep := rfl
@[simp] theorem State.push_keyInputs (s : State) (h : s.sp.val < 32) (w : Word) : (s.push h w).keyInputs = s.keyInputs := rfl
@[simp] theorem State.push_draws (s : State) (h : s.sp.val < 32) (w : Word) : (s.push h w).draws = s.draws := rfl
@[simp] theorem State.push_reg (s : State) (h : s.sp.val < 32) (w : Word) (r' : RegIdx) : (s.push h w).reg r' = s.reg r' := rfl
@[simp] theorem State.push_byteAt (s : State) (h : s.sp.val < 32) (w : Word) (a' : Nat) : (s.push h w).byteAt a' = s.byteAt a' := rfl
@[simp] theorem State.push_pixel (s : State) (h : s.sp.val < 32) (w : Word) (row : Fin 32) (col : Fin 64) : (s.push h w).pixel row col = s.pixel row col := rfl

/-! #### popPc -/

@[simp] theorem State.popPc_v (s : State) (h : 0 < s.sp.val) : (s.popPc h).v = s.v := rfl
@[simp] theorem State.popPc_i (s : State) (h : 0 < s.sp.val) : (s.popPc h).i = s.i := rfl
@[simp] theorem State.popPc_stack (s : State) (h : 0 < s.sp.val) : (s.popPc h).stack = s.stack := rfl
@[simp] theorem State.popPc_dt (s : State) (h : 0 < s.sp.val) : (s.popPc h).dt = s.dt := rfl
@[simp] theorem State.popPc_st (s : State) (h : 0 < s.sp.val) : (s.popPc h).st = s.st := rfl
@[simp] theorem State.popPc_mem (s : State) (h : 0 < s.sp.val) : (s.popPc h).mem = s.mem := rfl
@[simp] theorem State.popPc_disp (s : State) (h : 0 < s.sp.val) : (s.popPc h).disp = s.disp := rfl
@[simp] theorem State.popPc_drawFlag (s : State) (h : 0 < s.sp.val) : (s.popPc h).drawFlag = s.drawFlag := rfl
@[simp] theorem State.popPc_keys (s : State) (h : 0 < s.sp.val) : (s.popPc h).keys = s.keys := rfl
@[simp] theorem State.popPc_keysPrev (s : State) (h : 0 < s.sp.val) : (s.popPc h).keysPrev = s.keysPrev := rfl
@[simp] theorem State.popPc_fault (s : State) (h : 0 < s.sp.val) : (s.popPc h).fault = s.fault := rfl
@[simp] theorem State.popPc_beep (s : State) (h : 0 < s.sp.val) : (s.popPc h).beep = s.beep := rfl
@[simp] theorem State.popPc_keyInputs (s : State) (h : 0 < s.sp.val) : (s.popPc h).keyInputs = s.keyInputs := rfl
@[simp] theorem State.popPc_draws (s : State) (h : 0 < s.sp.val) : (s.popPc h).draws = s.draws := rfl
@[simp] theorem State.popPc_reg (s : State) (h : 0 < s.sp.val) (r' : RegIdx) : (s.popPc h).reg r' = s.reg r' := rfl
@[simp] theorem State.popPc_byteAt (s : State) (h : 0 < s.sp.val) (a' : Nat) : (s.popPc h).byteAt a' = s.byteAt a' := rfl
@[simp] theorem State.popPc_pixel (s : State) (h : 0 < s.sp.val) (row : Fin 32) (col : Fin 64) : (s.popPc h).pixel row col = s.pixel row col := rfl

/-! #### recordFault -/

@[simp] theorem State.recordFault_v (s : State) (c : FaultCode) (a : Nat) : (s.recordFault c a).v = s.v := rfl
@[simp] theorem State.recordFault_i (s : State) (c : FaultCode) (a : Nat) : (s.recordFault c a).i = s.i := rfl
@[simp] theorem State.recordFault_pc (s : State) (c : FaultCode) (a : Nat) : (s.recordFault c a).pc = s.pc := rfl
@[simp] theorem State.recordFault_sp (s : State) (c : FaultCode) (a : Nat) : (s.recordFault c a).sp = s.sp := rfl
@[simp] theorem State.recordFault_stack (s : State) (c : FaultCode) (a : Nat) : (s.recordFault c a).stack = s.stack := rfl
@[simp] theorem State.recordFault_dt (s : State) (c : FaultCode) (a : Nat) : (s.recordFault c a).dt = s.dt := rfl
@[simp] theorem State.recordFault_st (s : State) (c : FaultCode) (a : Nat) : (s.recordFault c a).st = s.st := rfl
@[simp] theorem State.recordFault_mem (s : State) (c : FaultCode) (a : Nat) : (s.recordFault c a).mem = s.mem := rfl
@[simp] theorem State.recordFault_disp (s : State) (c : FaultCode) (a : Nat) : (s.recordFault c a).disp = s.disp := rfl
@[simp] theorem State.recordFault_drawFlag (s : State) (c : FaultCode) (a : Nat) : (s.recordFault c a).drawFlag = s.drawFlag := rfl
@[simp] theorem State.recordFault_keys (s : State) (c : FaultCode) (a : Nat) : (s.recordFault c a).keys = s.keys := rfl
@[simp] theorem State.recordFault_keysPrev (s : State) (c : FaultCode) (a : Nat) : (s.recordFault c a).keysPrev = s.keysPrev := rfl
@[simp] theorem State.recordFault_fault (s : State) (c : FaultCode) (a : Nat) : (s.recordFault c a).fault = ⟨c, s.pc, BitVec.ofNat 17 a⟩ := rfl
@[simp] theorem State.recordFault_beep (s : State) (c : FaultCode) (a : Nat) : (s.recordFault c a).beep = s.beep := rfl
@[simp] theorem State.recordFault_keyInputs (s : State) (c : FaultCode) (a : Nat) : (s.recordFault c a).keyInputs = s.keyInputs := rfl
@[simp] theorem State.recordFault_draws (s : State) (c : FaultCode) (a : Nat) : (s.recordFault c a).draws = s.draws := rfl
@[simp] theorem State.recordFault_reg (s : State) (c : FaultCode) (a : Nat) (r' : RegIdx) : (s.recordFault c a).reg r' = s.reg r' := rfl
@[simp] theorem State.recordFault_byteAt (s : State) (c : FaultCode) (a : Nat) (a' : Nat) : (s.recordFault c a).byteAt a' = s.byteAt a' := rfl
@[simp] theorem State.recordFault_pixel (s : State) (c : FaultCode) (a : Nat) (row : Fin 32) (col : Fin 64) : (s.recordFault c a).pixel row col = s.pixel row col := rfl

/-! #### countDraw -/

@[simp] theorem State.countDraw_v (s : State) : (s.countDraw).v = s.v := rfl
@[simp] theorem State.countDraw_i (s : State) : (s.countDraw).i = s.i := rfl
@[simp] theorem State.countDraw_pc (s : State) : (s.countDraw).pc = s.pc := rfl
@[simp] theorem State.countDraw_sp (s : State) : (s.countDraw).sp = s.sp := rfl
@[simp] theorem State.countDraw_stack (s : State) : (s.countDraw).stack = s.stack := rfl
@[simp] theorem State.countDraw_dt (s : State) : (s.countDraw).dt = s.dt := rfl
@[simp] theorem State.countDraw_st (s : State) : (s.countDraw).st = s.st := rfl
@[simp] theorem State.countDraw_mem (s : State) : (s.countDraw).mem = s.mem := rfl
@[simp] theorem State.countDraw_disp (s : State) : (s.countDraw).disp = s.disp := rfl
@[simp] theorem State.countDraw_drawFlag (s : State) : (s.countDraw).drawFlag = s.drawFlag := rfl
@[simp] theorem State.countDraw_keys (s : State) : (s.countDraw).keys = s.keys := rfl
@[simp] theorem State.countDraw_keysPrev (s : State) : (s.countDraw).keysPrev = s.keysPrev := rfl
@[simp] theorem State.countDraw_fault (s : State) : (s.countDraw).fault = s.fault := rfl
@[simp] theorem State.countDraw_beep (s : State) : (s.countDraw).beep = s.beep := rfl
@[simp] theorem State.countDraw_keyInputs (s : State) : (s.countDraw).keyInputs = s.keyInputs := rfl
@[simp] theorem State.countDraw_draws (s : State) : (s.countDraw).draws = s.draws + 1 := rfl
@[simp] theorem State.countDraw_reg (s : State) (r' : RegIdx) : (s.countDraw).reg r' = s.reg r' := rfl
@[simp] theorem State.countDraw_byteAt (s : State) (a' : Nat) : (s.countDraw).byteAt a' = s.byteAt a' := rfl
@[simp] theorem State.countDraw_pixel (s : State) (row : Fin 32) (col : Fin 64) : (s.countDraw).pixel row col = s.pixel row col := rfl

/-! #### putDrawing -/

@[simp] theorem State.putDrawing_i (s : State) (d : Drawing) : (s.putDrawing d).i = s.i := rfl
@[simp] theorem State.putDrawing_pc (s : State) (d : Drawing) : (s.putDrawing d).pc = s.pc := rfl
@[simp] theorem State.putDrawing_sp (s : State) (d : Drawing) : (s.putDrawing d).sp = s.sp := rfl
@[simp] theorem State.putDrawing_stack (s : State) (d : Drawing) : (s.putDrawing d).stack = s.stack := rfl
@[simp] theorem State.putDrawing_dt (s : State) (d : Drawing) : (s.putDrawing d).dt = s.dt := rfl
@[simp] theorem State.putDrawing_st (s : State) (d : Drawing) : (s.putDrawing d).st = s.st := rfl
@[simp] theorem State.putDrawing_mem (s : State) (d : Drawing) : (s.putDrawing d).mem = s.mem := rfl
@[simp] theorem State.putDrawing_disp (s : State) (d : Drawing) : (s.putDrawing d).disp = d.1 := rfl
@[simp] theorem State.putDrawing_drawFlag (s : State) (d : Drawing) : (s.putDrawing d).drawFlag = true := rfl
@[simp] theorem State.putDrawing_keys (s : State) (d : Drawing) : (s.putDrawing d).keys = s.keys := rfl
@[simp] theorem State.putDrawing_keysPrev (s : State) (d : Drawing) : (s.putDrawing d).keysPrev = s.keysPrev := rfl
@[simp] theorem State.putDrawing_fault (s : State) (d : Drawing) : (s.putDrawing d).fault = s.fault := rfl
@[simp] theorem State.putDrawing_beep (s : State) (d : Drawing) : (s.putDrawing d).beep = s.beep := rfl
@[simp] theorem State.putDrawing_keyInputs (s : State) (d : Drawing) : (s.putDrawing d).keyInputs = s.keyInputs := rfl
@[simp] theorem State.putDrawing_draws (s : State) (d : Drawing) : (s.putDrawing d).draws = s.draws := rfl
@[simp] theorem State.putDrawing_byteAt (s : State) (d : Drawing) (a' : Nat) : (s.putDrawing d).byteAt a' = s.byteAt a' := rfl

/-! ### The accessors after the update they belong to -/

theorem State.setReg_reg (s : State) (x r : RegIdx) (b : Byte) : (s.setReg x b).reg r = if r = x then b else s.reg r := by
  simp only [State.setReg, State.reg, Fin.getElem_fin, Vector.getElem_set, Fin.val_inj, eq_comm (a := x)]

@[simp] theorem State.setReg_reg_same (s : State) (x : RegIdx) (b : Byte) : (s.setReg x b).reg x = b := by
  simp [State.setReg_reg]

@[simp] theorem State.setReg_reg_other (s : State) (x r : RegIdx) (b : Byte) (h : r ≠ x) : (s.setReg x b).reg r = s.reg r := by
  simp [State.setReg_reg, h]

theorem Display.setPixel_pixel (d : Display) (row r : Fin 32) (col c : Fin 64) (b : Bool) :
    Display.pixel (Display.setPixel d row col b) r c = if r = row ∧ c = col then b else Display.pixel d r c := by
  simp only [Display.pixel, Display.setPixel, Fin.getElem_fin, Vector.getElem_set, Fin.val_inj]
  by_cases hr : row = r
  · subst hr; by_cases hc : col = c
    · simp [hc]
    · simp [hc, Ne.symm hc, Fin.val_inj]
  · simp [hr, Ne.symm hr]

theorem Display.ext_pixel (d e : Display) (h : ∀ r c, Display.pixel d r c = Display.pixel e r c) : d = e := by
  apply Vector.ext
  intro r hr
  apply Vector.ext
  intro c hc
  exact h ⟨r, hr⟩ ⟨c, hc⟩

@[simp] theorem Display.blank_pixel (r : Fin 32) (c : Fin 64) : Display.pixel Display.blank r c = false := by
  simp [Display.pixel, Display.blank]

theorem State.skipIf_eq (s : State) (c : Bool) : s.skipIf c = s.setPc (if c then s.pc + 2 else s.pc) := by
  cases c <;> rfl

@[simp] theorem State.popPc_sp (s : State) (h : 0 < s.sp.val) : (s.popPc h).sp.val = s.sp.val - 1 := rfl

theorem State.popPc_pc (s : State) (h : 0 < s.sp.val) :
    (s.popPc h).pc = s.stack[s.sp.val - 1]'(by have := s.sp.isLt; omega) := rfl

@[simp] theorem State.putDrawing_pixel (s : State) (d : Drawing) (row : Fin 32) (col : Fin 64) :
    (s.putDrawing d).pixel row col = Display.pixel d.1 row col := rfl

theorem State.putDrawing_reg (s : State) (d : Drawing) (r : RegIdx) :
    (s.putDrawing d).reg r = if r = regVF then flagByte d.2 else s.reg r := by
  simp only [State.putDrawing, State.setReg_reg]; rfl

end Sys2Proof.Machine
end

