-- ==== Sys2Proof/Laws/Cycle.lean ====
section
/-! SUPPORT. The cycle: what each of its parts changes and leaves, and, said once, everything a step can do. -/

namespace Sys2Proof.Machine

/-! #### sampleKeys -/

@[simp] theorem State.sampleKeys_v (s : State) : (s.sampleKeys).v = s.v := by unfold State.sampleKeys; split <;> rfl
@[simp] theorem State.sampleKeys_i (s : State) : (s.sampleKeys).i = s.i := by unfold State.sampleKeys; split <;> rfl
@[simp] theorem State.sampleKeys_pc (s : State) : (s.sampleKeys).pc = s.pc := by unfold State.sampleKeys; split <;> rfl
@[simp] theorem State.sampleKeys_sp (s : State) : (s.sampleKeys).sp = s.sp := by unfold State.sampleKeys; split <;> rfl
@[simp] theorem State.sampleKeys_stack (s : State) : (s.sampleKeys).stack = s.stack := by unfold State.sampleKeys; split <;> rfl
@[simp] theorem State.sampleKeys_dt (s : State) : (s.sampleKeys).dt = s.dt := by unfold State.sampleKeys; split <;> rfl
@[simp] theorem State.sampleKeys_st (s : State) : (s.sampleKeys).st = s.st := by unfold State.sampleKeys; split <;> rfl
@[simp] theorem State.sampleKeys_mem (s : State) : (s.sampleKeys).mem = s.mem := by unfold State.sampleKeys; split <;> rfl
@[simp] theorem State.sampleKeys_disp (s : State) : (s.sampleKeys).disp = s.disp := by unfold State.sampleKeys; split <;> rfl
@[simp] theorem State.sampleKeys_drawFlag (s : State) : (s.sampleKeys).drawFlag = s.drawFlag := by unfold State.sampleKeys; split <;> rfl
@[simp] theorem State.sampleKeys_keysPrev (s : State) : (s.sampleKeys).keysPrev = s.keysPrev := by unfold State.sampleKeys; split <;> rfl
@[simp] theorem State.sampleKeys_fault (s : State) : (s.sampleKeys).fault = s.fault := by unfold State.sampleKeys; split <;> rfl
@[simp] theorem State.sampleKeys_beep (s : State) : (s.sampleKeys).beep = s.beep := by unfold State.sampleKeys; split <;> rfl
@[simp] theorem State.sampleKeys_draws (s : State) : (s.sampleKeys).draws = s.draws := by unfold State.sampleKeys; split <;> rfl
@[simp] theorem State.sampleKeys_reg (s : State) (r' : RegIdx) : (s.sampleKeys).reg r' = s.reg r' := by unfold State.sampleKeys; split <;> rfl
@[simp] theorem State.sampleKeys_byteAt (s : State) (a' : Nat) : (s.sampleKeys).byteAt a' = s.byteAt a' := by unfold State.sampleKeys; split <;> rfl
@[simp] theorem State.sampleKeys_pixel (s : State) (row : Fin 32) (col : Fin 64) : (s.sampleKeys).pixel row col = s.pixel row col := by unfold State.sampleKeys; split <;> rfl

/-! #### beginCycle -/

@[simp] theorem State.beginCycle_v (s : State) : (s.beginCycle).v = s.v := by unfold State.beginCycle State.sampleKeys; split <;> rfl
@[simp] theorem State.beginCycle_i (s : State) : (s.beginCycle).i = s.i := by unfold State.beginCycle State.sampleKeys; split <;> rfl
@[simp] theorem State.beginCycle_pc (s : State) : (s.beginCycle).pc = s.pc := by unfold State.beginCycle State.sampleKeys; split <;> rfl
@[simp] theorem State.beginCycle_sp (s : State) : (s.beginCycle).sp = s.sp := by unfold State.beginCycle State.sampleKeys; split <;> rfl
@[simp] theorem State.beginCycle_stack (s : State) : (s.beginCycle).stack = s.stack := by unfold State.beginCycle State.sampleKeys; split <;> rfl
@[simp] theorem State.beginCycle_dt (s : State) : (s.beginCycle).dt = s.dt := by unfold State.beginCycle State.sampleKeys; split <;> rfl
@[simp] theorem State.beginCycle_st (s : State) : (s.beginCycle).st = s.st := by unfold State.beginCycle State.sampleKeys; split <;> rfl
@[simp] theorem State.beginCycle_mem (s : State) : (s.beginCycle).mem = s.mem := by unfold State.beginCycle State.sampleKeys; split <;> rfl
@[simp] theorem State.beginCycle_disp (s : State) : (s.beginCycle).disp = s.disp := by unfold State.beginCycle State.sampleKeys; split <;> rfl
@[simp] theorem State.beginCycle_drawFlag (s : State) : (s.beginCycle).drawFlag = s.drawFlag := by unfold State.beginCycle State.sampleKeys; split <;> rfl
@[simp] theorem State.beginCycle_keysPrev (s : State) : (s.beginCycle).keysPrev = s.keysPrev := by unfold State.beginCycle State.sampleKeys; split <;> rfl
@[simp] theorem State.beginCycle_fault (s : State) : (s.beginCycle).fault = s.fault := by unfold State.beginCycle State.sampleKeys; split <;> rfl
@[simp] theorem State.beginCycle_beep (s : State) : (s.beginCycle).beep = false := rfl
@[simp] theorem State.beginCycle_draws (s : State) : (s.beginCycle).draws = s.draws := by unfold State.beginCycle State.sampleKeys; split <;> rfl
@[simp] theorem State.beginCycle_reg (s : State) (r' : RegIdx) : (s.beginCycle).reg r' = s.reg r' := by unfold State.beginCycle State.sampleKeys; split <;> rfl
@[simp] theorem State.beginCycle_byteAt (s : State) (a' : Nat) : (s.beginCycle).byteAt a' = s.byteAt a' := by unfold State.beginCycle State.sampleKeys; split <;> rfl
@[simp] theorem State.beginCycle_pixel (s : State) (row : Fin 32) (col : Fin 64) : (s.beginCycle).pixel row col = s.pixel row col := by unfold State.beginCycle State.sampleKeys; split <;> rfl

/-! #### tickDelay -/

@[simp] theorem State.tickDelay_v (s : State) : (s.tickDelay).v = s.v := by unfold State.tickDelay; split <;> rfl
@[simp] theorem State.tickDelay_i (s : State) : (s.tickDelay).i = s.i := by unfold State.tickDelay; split <;> rfl
@[simp] theorem State.tickDelay_pc (s : State) : (s.tickDelay).pc = s.pc := by unfold State.tickDelay; split <;> rfl
@[simp] theorem State.tickDelay_sp (s : State) : (s.tickDelay).sp = s.sp := by unfold State.tickDelay; split <;> rfl
@[simp] theorem State.tickDelay_stack (s : State) : (s.tickDelay).stack = s.stack := by unfold State.tickDelay; split <;> rfl
@[simp] theorem State.tickDelay_st (s : State) : (s.tickDelay).st = s.st := by unfold State.tickDelay; split <;> rfl
@[simp] theorem State.tickDelay_mem (s : State) : (s.tickDelay).mem = s.mem := by unfold State.tickDelay; split <;> rfl
@[simp] theorem State.tickDelay_disp (s : State) : (s.tickDelay).disp = s.disp := by unfold State.tickDelay; split <;> rfl
@[simp] theorem State.tickDelay_drawFlag (s : State) : (s.tickDelay).drawFlag = s.drawFlag := by unfold State.tickDelay; split <;> rfl
@[simp] theorem State.tickDelay_keys (s : State) : (s.tickDelay).keys = s.keys := by unfold State.tickDelay; split <;> rfl
@[simp] theorem State.tickDelay_keysPrev (s : State) : (s.tickDelay).keysPrev = s.keysPrev := by unfold State.tickDelay; split <;> rfl
@[simp] theorem State.tickDelay_fault (s : State) : (s.tickDelay).fault = s.fault := by unfold State.tickDelay; split <;> rfl
@[simp] theorem State.tickDelay_beep (s : State) : (s.tickDelay).beep = s.beep := by unfold State.tickDelay; split <;> rfl
@[simp] theorem State.tickDelay_keyInputs (s : State) : (s.tickDelay).keyInputs = s.keyInputs := by unfold State.tickDelay; split <;> rfl
@[simp] theorem State.tickDelay_draws (s : State) : (s.tickDelay).draws = s.draws := by unfold State.tickDelay; split <;> rfl
@[simp] theorem State.tickDelay_reg (s : State) (r' : RegIdx) : (s.tickDelay).reg r' = s.reg r' := by unfold State.tickDelay; split <;> rfl
@[simp] theorem State.tickDelay_byteAt (s : State) (a' : Nat) : (s.tickDelay).byteAt a' = s.byteAt a' := by unfold State.tickDelay; split <;> rfl
@[simp] theorem State.tickDelay_pixel (s : State) (row : Fin 32) (col : Fin 64) : (s.tickDelay).pixel row col = s.pixel row col := by unfold State.tickDelay; split <;> rfl

/-! #### tickSound -/

@[simp] theorem State.tickSound_v (s : State) : (s.tickSound).v = s.v := by unfold State.tickSound; split <;> rfl
@[simp] theorem State.tickSound_i (s : State) : (s.tickSound).i = s.i := by unfold State.tickSound; split <;> rfl
@[simp] theorem State.tickSound_pc (s : State) : (s.tickSound).pc = s.pc := by unfold State.tickSound; split <;> rfl
@[simp] theorem State.tickSound_sp (s : State) : (s.tickSound).sp = s.sp := by unfold State.tickSound; split <;> rfl
@[simp] theorem State.tickSound_stack (s : State) : (s.tickSound).stack = s.stack := by unfold State.tickSound; split <;> rfl
@[simp] theorem State.tickSound_dt (s : State) : (s.tickSound).dt = s.dt := by unfold State.tickSound; split <;> rfl
@[simp] theorem State.tickSound_mem (s : State) : (s.tickSound).mem = s.mem := by unfold State.tickSound; split <;> rfl
@[simp] theorem State.tickSound_disp (s : State) : (s.tickSound).disp = s.disp := by unfold State.tickSound; split <;> rfl
@[simp] theorem State.tickSound_drawFlag (s : State) : (s.tickSound).drawFlag = s.drawFlag := by unfold State.tickSound; split <;> rfl
@[simp] theorem State.tickSound_keys (s : State) : (s.tickSound).keys = s.keys := by unfold State.tickSound; split <;> rfl
@[simp] theorem State.tickSound_keysPrev (s : State) : (s.tickSound).keysPrev = s.keysPrev := by unfold State.tickSound; split <;> rfl
@[simp] theorem State.tickSound_fault (s : State) : (s.tickSound).fault = s.fault := by unfold State.tickSound; split <;> rfl
@[simp] theorem State.tickSound_keyInputs (s : State) : (s.tickSound).keyInputs = s.keyInputs := by unfold State.tickSound; split <;> rfl
@[simp] theorem State.tickSound_draws (s : State) : (s.tickSound).draws = s.draws := by unfold State.tickSound; split <;> rfl
@[simp] theorem State.tickSound_reg (s : State) (r' : RegIdx) : (s.tickSound).reg r' = s.reg r' := by unfold State.tickSound; split <;> rfl
@[simp] theorem State.tickSound_byteAt (s : State) (a' : Nat) : (s.tickSound).byteAt a' = s.byteAt a' := by unfold State.tickSound; split <;> rfl
@[simp] theorem State.tickSound_pixel (s : State) (row : Fin 32) (col : Fin 64) : (s.tickSound).pixel row col = s.pixel row col := by unfold State.tickSound; split <;> rfl

/-! #### latchKeys -/

@[simp] theorem State.latchKeys_v (s : State) : (s.latchKeys).v = s.v := rfl
@[simp] theorem State.latchKeys_i (s : State) : (s.latchKeys).i = s.i := rfl
@[simp] theorem State.latchKeys_pc (s : State) : (s.latchKeys).pc = s.pc := rfl
@[simp] theorem State.latchKeys_sp (s : State) : (s.latchKeys).sp = s.sp := rfl
@[simp] theorem State.latchKeys_stack (s : State) : (s.latchKeys).stack = s.stack := rfl
@[simp] theorem State.latchKeys_dt (s : State) : (s.latchKeys).dt = s.dt := rfl
@[simp] theorem State.latchKeys_st (s : State) : (s.latchKeys).st = s.st := rfl
@[simp] theorem State.latchKeys_mem (s : State) : (s.latchKeys).mem = s.mem := rfl
@[simp] theorem State.latchKeys_disp (s : State) : (s.latchKeys).disp = s.disp := rfl
@[simp] theorem State.latchKeys_drawFlag (s : State) : (s.latchKeys).drawFlag = s.drawFlag := rfl
@[simp] theorem State.latchKeys_keys (s : State) : (s.latchKeys).keys = s.keys := rfl
@[simp] theorem State.latchKeys_keysPrev (s : State) : (s.latchKeys).keysPrev = s.keys := rfl
@[simp] theorem State.latchKeys_fault (s : State) : (s.latchKeys).fault = s.fault := rfl
@[simp] theorem State.latchKeys_beep (s : State) : (s.latchKeys).beep = s.beep := rfl
@[simp] theorem State.latchKeys_keyInputs (s : State) : (s.latchKeys).keyInputs = s.keyInputs := rfl
@[simp] theorem State.latchKeys_draws (s : State) : (s.latchKeys).draws = s.draws := rfl
@[simp] theorem State.latchKeys_reg (s : State) (r' : RegIdx) : (s.latchKeys).reg r' = s.reg r' := rfl
@[simp] theorem State.latchKeys_byteAt (s : State) (a' : Nat) : (s.latchKeys).byteAt a' = s.byteAt a' := rfl
@[simp] theorem State.latchKeys_pixel (s : State) (row : Fin 32) (col : Fin 64) : (s.latchKeys).pixel row col = s.pixel row col := rfl

@[simp] theorem State.beginCycle_keys (s : State) : s.beginCycle.keys = s.sampleKeys.keys := rfl

@[simp] theorem State.beginCycle_keyInputs (s : State) : s.beginCycle.keyInputs = s.sampleKeys.keyInputs := rfl

@[simp] theorem State.sampleKeys_held (s : State) (h : s.keyInputs = []) : s.sampleKeys = s := by
  simp [State.sampleKeys, h]

@[simp] theorem State.sampleKeys_taken (s : State) (k : KeyMatrix) (ks : List KeyMatrix) (h : s.keyInputs = k :: ks) :
    s.sampleKeys = { s with keys := k, keyInputs := ks } := by
  simp [State.sampleKeys, h]

/-- The tick of DT (R106): one less, never below 0. -/
theorem State.tickDelay_dt (s : State) : s.tickDelay.dt = if s.dt = 0 then 0 else s.dt - 1 := by
  unfold State.tickDelay; split
  · next h => rw [h]
  · rfl

/-- The tick of ST (R107). -/
theorem State.tickSound_st (s : State) : s.tickSound.st = if s.st = 0 then 0 else s.st - 1 := by
  unfold State.tickSound; split
  · next h => rw [h]
  · rfl

/-- The beep: emitted in the cycle in which ST goes from 1 to 0 (R107). -/
theorem State.tickSound_beep (s : State) : s.tickSound.beep = if s.st = 0 then s.beep else s.st == 1 := by
  unfold State.tickSound; split <;> rfl

/-! #### endCycle -/

theorem State.endCycle_dt (s : State) : s.endCycle.dt = if s.dt = 0 then 0 else s.dt - 1 := by
  simp [State.endCycle, State.tickDelay_dt]

theorem State.endCycle_st (s : State) : s.endCycle.st = if s.st = 0 then 0 else s.st - 1 := by
  simp [State.endCycle, State.tickSound_st]

theorem State.endCycle_beep (s : State) : s.endCycle.beep = if s.st = 0 then s.beep else s.st == 1 := by
  simp [State.endCycle, State.tickSound_beep]

@[simp] theorem State.endCycle_keysPrev (s : State) : s.endCycle.keysPrev = s.keys := by simp [State.endCycle]

@[simp] theorem State.endCycle_v (s : State) : s.endCycle.v = s.v := by simp [State.endCycle]

@[simp] theorem State.endCycle_i (s : State) : s.endCycle.i = s.i := by simp [State.endCycle]

@[simp] theorem State.endCycle_pc (s : State) : s.endCycle.pc = s.pc := by simp [State.endCycle]

@[simp] theorem State.endCycle_sp (s : State) : s.endCycle.sp = s.sp := by simp [State.endCycle]

@[simp] theorem State.endCycle_stack (s : State) : s.endCycle.stack = s.stack := by simp [State.endCycle]

@[simp] theorem State.endCycle_mem (s : State) : s.endCycle.mem = s.mem := by simp [State.endCycle]

@[simp] theorem State.endCycle_disp (s : State) : s.endCycle.disp = s.disp := by simp [State.endCycle]

@[simp] theorem State.endCycle_drawFlag (s : State) : s.endCycle.drawFlag = s.drawFlag := by simp [State.endCycle]

@[simp] theorem State.endCycle_keys (s : State) : s.endCycle.keys = s.keys := by simp [State.endCycle]

@[simp] theorem State.endCycle_fault (s : State) : s.endCycle.fault = s.fault := by simp [State.endCycle]

@[simp] theorem State.endCycle_keyInputs (s : State) : s.endCycle.keyInputs = s.keyInputs := by simp [State.endCycle]

@[simp] theorem State.endCycle_draws (s : State) : s.endCycle.draws = s.draws := by simp [State.endCycle]

@[simp] theorem State.endCycle_reg (s : State) (r : RegIdx) : s.endCycle.reg r = s.reg r := by simp [State.endCycle]

@[simp] theorem State.endCycle_byteAt (s : State) (a : Nat) : s.endCycle.byteAt a = s.byteAt a := by simp [State.endCycle]

@[simp] theorem State.endCycle_pixel (s : State) (row : Fin 32) (col : Fin 64) : s.endCycle.pixel row col = s.pixel row col := by simp [State.endCycle]

/-! ### Everything a step can do -/

/-- A stopped core takes no cycle (R248). -/
theorem step_stopped (s : State) (h : s.fault.code ≠ .none) : step s = .fault (.stopped s.fault.code) := by
  simp [step, cycleWith, h]

/-- A fetch out of range (R101). -/
theorem step_fetch_fault (s : State) (h : s.fault.code = .none) (hp : 0xFFE < s.pc.toNat) :
    step s = .next (s.beginCycle.recordFault .fetchFault (max s.pc.toNat 0x1000)) := by
  have : firstOutOfRange s.pc.toNat 2 = some (max s.pc.toNat 0x1000) :=
    (firstOutOfRange_some _ _ _).2 ⟨by omega, by simp only [memSize]; omega, rfl⟩
  simp [step, cycleWith, h, this]

/-- A fetch in range: the word is decoded and executed in the advanced state, and the cycle is finished (R101 to R108). -/
theorem step_fetched (s : State) (h : s.fault.code = .none) (hp : s.pc.toNat ≤ 0xFFE) :
    step s = executeAt exec s.beginCycle := by
  have : firstOutOfRange s.pc.toNat 2 = none := (firstOutOfRange_none _ _).2 (.inr (by simp only [memSize]; omega))
  simp [step, cycleWith, h, this]

/-- The three ways a step answers a next state. -/
theorem step_next_cases {s t : State} (h : step s = .next t) :
    s.fault.code = .none ∧
    ((0xFFE < s.pc.toNat ∧ t = s.beginCycle.recordFault .fetchFault (max s.pc.toNat 0x1000)) ∨
     (s.pc.toNat ≤ 0xFFE ∧ ∃ u, exec (decode (s.beginCycle.wordAt s.pc.toNat)) s.beginCycle.advancePc = .next u ∧
       ((u.fault.code = .none ∧ t = u.endCycle) ∨ (u.fault.code ≠ .none ∧ t = u)))) := by
  by_cases hf : s.fault.code = .none
  · refine ⟨hf, ?_⟩
    by_cases hp : 0xFFE < s.pc.toNat
    · rw [step_fetch_fault s hf hp, Host.Outcome.next.injEq] at h
      exact .inl ⟨hp, h.symm⟩
    · rw [step_fetched s hf (by omega), executeAt, State.beginCycle_pc] at h
      refine .inr ⟨by omega, ?_⟩
      split at h
      · next u hu =>
        refine ⟨u, hu, ?_⟩
        rw [Host.Outcome.next.injEq, finishCycle] at h
        split at h
        · next hn => exact .inl ⟨hn, h.symm⟩
        · next hn => exact .inr ⟨hn, h.symm⟩
      · exact absurd h (by simp)
      · exact absurd h (by simp)
  · rw [step_stopped s hf] at h; exact absurd h (by simp)

/-- A step that leaves the core running completed its cycle (R109). -/
theorem step_running {s t : State} (h : step s = .next t) (hr : t.fault.code = .none) :
    ∃ u, exec (decode (s.wordAt s.pc.toNat)) s.beginCycle.advancePc = .next u ∧ t = u.endCycle := by
  obtain ⟨hf, ⟨-, rfl⟩ | ⟨-, u, hu, ⟨hn', rfl⟩ | ⟨hn', rfl⟩⟩⟩ := step_next_cases h
  · exact absurd hr (by simp)
  · exact ⟨u, by simpa [State.wordAt] using hu, rfl⟩
  · exact absurd hr hn'

/-- A timer's tick, as a number (R106, R107). -/
theorem tick_toNat (b : Byte) : (if b = 0 then (0 : Byte) else b - 1).toNat = b.toNat - 1 := by
  have := b.isLt
  split
  · next h => subst h; rfl
  · next h =>
    have h0 : b.toNat ≠ 0 := fun h' => h (BitVec.eq_of_toNat_eq h')
    rw [BitVec.toNat_sub, show (1 : Byte).toNat = 1 from rfl]; omega

end Sys2Proof.Machine
end

