-- ==== Sys2Proof/Laws/Fields.lean ====
section
/-! SUPPORT. The fields of a word put together by a format are the fields that went in, and the bytes of a word give it back. -/

namespace Sys2Proof

theorem append_toNat {m n : Nat} (a : BitVec m) (b : BitVec n) : (a ++ b).toNat = a.toNat * 2 ^ n + b.toNat := by
  rw [BitVec.toNat_append, ← Nat.shiftLeft_add_eq_or_of_lt b.isLt, Nat.shiftLeft_eq]

theorem formNNN_toNat (h : BitVec 4) (nnn : Addr12) : (formNNN h nnn).toNat = h.toNat * 4096 + nnn.toNat := by
  simp only [formNNN, append_toNat, Nat.reducePow]

theorem formXNN_toNat (h : BitVec 4) (x : RegIdx) (nn : Byte) :
    (formXNN h x nn).toNat = h.toNat * 4096 + x.val * 256 + nn.toNat := by
  simp only [formXNN, append_toNat, BitVec.toNat_ofFin]; omega

theorem formXYN_toNat (h : BitVec 4) (x y : RegIdx) (n : Fin 16) :
    (formXYN h x y n).toNat = h.toNat * 4096 + x.val * 256 + y.val * 16 + n.val := by
  simp only [formXYN, append_toNat, BitVec.toNat_ofFin]; omega

theorem family_eq (op : Word) : family op = op.toNat / 4096 := by
  simp [family, Nat.shiftRight_eq_div_pow]; omega

theorem fieldX_val (op : Word) : (fieldX op).val = op.toNat / 256 % 16 := by
  simp [fieldX, Nat.shiftRight_eq_div_pow]

theorem fieldY_val (op : Word) : (fieldY op).val = op.toNat / 16 % 16 := by
  simp [fieldY, Nat.shiftRight_eq_div_pow]

theorem fieldN_val (op : Word) : (fieldN op).val = op.toNat % 16 := by
  simp [fieldN]

theorem fieldNN_toNat (op : Word) : (fieldNN op).toNat = op.toNat % 256 := by
  simp [fieldNN]

theorem fieldNNN_toNat (op : Word) : (fieldNNN op).toNat = op.toNat % 4096 := by
  simp [fieldNNN]

theorem family_lt (op : Word) : family op < 16 := by
  rw [family_eq]; omega

@[simp] theorem family_formNNN (h : BitVec 4) (nnn : Addr12) : family (formNNN h nnn) = h.toNat := by
  rw [family_eq, formNNN_toNat]; omega

@[simp] theorem family_formXNN (h : BitVec 4) (x : RegIdx) (nn : Byte) : family (formXNN h x nn) = h.toNat := by
  rw [family_eq, formXNN_toNat]; omega

@[simp] theorem family_formXYN (h : BitVec 4) (x y : RegIdx) (n : Fin 16) : family (formXYN h x y n) = h.toNat := by
  rw [family_eq, formXYN_toNat]; omega

@[simp] theorem fieldNNN_formNNN (h : BitVec 4) (nnn : Addr12) : fieldNNN (formNNN h nnn) = nnn := by
  apply BitVec.eq_of_toNat_eq; rw [fieldNNN_toNat, formNNN_toNat]; omega

@[simp] theorem fieldX_formXNN (h : BitVec 4) (x : RegIdx) (nn : Byte) : fieldX (formXNN h x nn) = x := by
  ext; rw [fieldX_val, formXNN_toNat]; omega

@[simp] theorem fieldNN_formXNN (h : BitVec 4) (x : RegIdx) (nn : Byte) : fieldNN (formXNN h x nn) = nn := by
  apply BitVec.eq_of_toNat_eq; rw [fieldNN_toNat, formXNN_toNat]; omega

@[simp] theorem fieldX_formXYN (h : BitVec 4) (x y : RegIdx) (n : Fin 16) : fieldX (formXYN h x y n) = x := by
  ext; rw [fieldX_val, formXYN_toNat]; omega

@[simp] theorem fieldY_formXYN (h : BitVec 4) (x y : RegIdx) (n : Fin 16) : fieldY (formXYN h x y n) = y := by
  ext; rw [fieldY_val, formXYN_toNat]; omega

@[simp] theorem fieldN_formXYN (h : BitVec 4) (x y : RegIdx) (n : Fin 16) : fieldN (formXYN h x y n) = n := by
  ext; rw [fieldN_val, formXYN_toNat]; omega

theorem wordOfBytes_toNat (hi lo : Byte) : (wordOfBytes hi lo).toNat = hi.toNat * 256 + lo.toNat := by
  simp only [wordOfBytes, append_toNat, Nat.reducePow]

theorem highByte_toNat (op : Word) : (highByte op).toNat = op.toNat / 256 := by
  simp [highByte, Nat.shiftRight_eq_div_pow]; omega

theorem lowByte_toNat (op : Word) : (lowByte op).toNat = op.toNat % 256 := by
  simp [lowByte]

/-- Big-endian: the two bytes of a word give the word back (R51). -/
@[simp] theorem wordOfBytes_bytes (op : Word) : wordOfBytes (highByte op) (lowByte op) = op := by
  apply BitVec.eq_of_toNat_eq; rw [wordOfBytes_toNat, highByte_toNat, lowByte_toNat]; omega

@[simp] theorem highByte_wordOfBytes (hi lo : Byte) : highByte (wordOfBytes hi lo) = hi := by
  apply BitVec.eq_of_toNat_eq; rw [highByte_toNat, wordOfBytes_toNat]; omega

@[simp] theorem lowByte_wordOfBytes (hi lo : Byte) : lowByte (wordOfBytes hi lo) = lo := by
  apply BitVec.eq_of_toNat_eq; rw [lowByte_toNat, wordOfBytes_toNat]; omega

/-- The fields of a word in format F-NNN are all of it. -/
theorem formNNN_fields (op : Word) (h : BitVec 4) (hf : family op = h.toNat) : formNNN h (fieldNNN op) = op := by
  apply BitVec.eq_of_toNat_eq; rw [formNNN_toNat, ← hf, family_eq, fieldNNN_toNat]; omega

theorem formXNN_fields (op : Word) (h : BitVec 4) (hf : family op = h.toNat) :
    formXNN h (fieldX op) (fieldNN op) = op := by
  apply BitVec.eq_of_toNat_eq; rw [formXNN_toNat, ← hf, family_eq, fieldX_val, fieldNN_toNat]; omega

theorem formXYN_fields (op : Word) (h : BitVec 4) (hf : family op = h.toNat) :
    formXYN h (fieldX op) (fieldY op) (fieldN op) = op := by
  apply BitVec.eq_of_toNat_eq; rw [formXYN_toNat, ← hf, family_eq, fieldX_val, fieldY_val, fieldN_val]; omega

end Sys2Proof
end

