-- ==== Sys2Proof/Laws/Decode.lean ====
section
/-! SUPPORT. The decoder, family by family: which words it calls UNKNOWN, and that every other word of families 8, E and F encodes back. -/

namespace Sys2Proof

/-! ### Which words are UNKNOWN (R78) -/

theorem decode8_unknown_iff (op : Word) (x y : RegIdx) :
    decode8 op x y = .unknown op ↔ fieldN op ∈ ([0x8, 0x9, 0xA, 0xB, 0xC, 0xD, 0xF] : List (Fin 16)) := by
  unfold decode8
  generalize fieldN op = n
  fin_cases n <;> simp

theorem decodeE_unknown_iff (op : Word) (x : RegIdx) :
    decodeE op x = .unknown op ↔ fieldNN op ∉ ([0x9E, 0xA1] : List Byte) := by
  unfold decodeE
  simp only [List.mem_cons, ← BitVec.toNat_inj]
  generalize (fieldNN op).toNat = n
  split <;> simp_all

theorem decodeF_unknown_iff (op : Word) (x : RegIdx) :
    decodeF op x = .unknown op ↔
      fieldNN op ∉ ([0x07, 0x0A, 0x15, 0x18, 0x1E, 0x29, 0x33, 0x55, 0x65] : List Byte) := by
  unfold decodeF
  simp only [List.mem_cons, ← BitVec.toNat_inj]
  generalize (fieldNN op).toNat = n
  split <;> simp_all

/-- The decoder and the list of R78 agree. -/
theorem decodeWith_unknown_iff (mode : LowNibbleMode) (op : Word) :
    decodeWith mode op = .unknown op ↔ isUnrecognized mode op = true := by
  have hlt := family_lt op
  unfold decodeWith isUnrecognized
  generalize hf : family op = f at hlt
  interval_cases f <;> simp only [decode8_unknown_iff, decodeE_unknown_iff, decodeF_unknown_iff, decide_eq_true_eq]
  · split
    · simp
    · split <;> simp
  all_goals simp
  all_goals (cases mode <;> simp [decode59])

/-! ### UNKNOWN carries the raw word (R231) -/

theorem decode8_unknown {op raw : Word} {x y : RegIdx} (h : decode8 op x y = .unknown raw) : raw = op := by
  unfold decode8 at h; split at h <;> simp_all

theorem decodeE_unknown {op raw : Word} {x : RegIdx} (h : decodeE op x = .unknown raw) : raw = op := by
  unfold decodeE at h; split at h <;> simp_all

theorem decodeF_unknown {op raw : Word} {x : RegIdx} (h : decodeF op x = .unknown raw) : raw = op := by
  unfold decodeF at h; split at h <;> simp_all

theorem decodeWith_unknown {mode : LowNibbleMode} {op raw : Word} (h : decodeWith mode op = .unknown raw) : raw = op := by
  have hlt := family_lt op
  unfold decodeWith at h
  generalize family op = f at hlt h
  interval_cases f <;> simp only [] at h
  all_goals first
    | exact decode8_unknown h
    | exact decodeE_unknown h
    | exact decodeF_unknown h
    | exact absurd h (by simp)
    | (split at h <;> first
        | exact absurd h (by simp)
        | (cases mode <;> simp_all [decode59]; done)
        | (split at h <;> simp at h))

/-! ### Families 8, E and F encode back -/

theorem encode_decode8 (op : Word) (hf : family op = 8) : encode (decode8 op (fieldX op) (fieldY op)) = op := by
  have key := formXYN_fields op 0x8#4 hf
  unfold decode8
  split
  case h_10 => rfl
  all_goals
    rename_i h
    refine Eq.trans ?_ key
    simp only [encode]
    congr 1
    exact Fin.ext (by rw [h]; rfl)

theorem encode_decodeE (op : Word) (hf : family op = 14) : encode (decodeE op (fieldX op)) = op := by
  have key := formXNN_fields op 0xE#4 hf
  unfold decodeE
  split
  case h_3 => rfl
  all_goals
    rename_i h
    refine Eq.trans ?_ key
    simp only [encode]
    congr 1
    exact BitVec.eq_of_toNat_eq (by rw [h]; rfl)

theorem encode_decodeF (op : Word) (hf : family op = 15) : encode (decodeF op (fieldX op)) = op := by
  have key := formXNN_fields op 0xF#4 hf
  unfold decodeF
  split
  case h_10 => rfl
  all_goals
    rename_i h
    refine Eq.trans ?_ key
    simp only [encode]
    congr 1
    exact BitVec.eq_of_toNat_eq (by rw [h]; rfl)

end Sys2Proof
end

