-- ==== Sys2Proof/Laws/Display.lean ====
section
/-! SUPPORT. The XOR unit, pixel by pixel: the loops of DXYN invert exactly the pixels the sprite covers, each once, and note a collision
exactly when one of those was set. -/

namespace Sys2Proof.Machine

theorem eq_column_iff (x0 c : Nat) (hc : c < 64) (col : Fin 64) :
    col = Fin.ofNat 64 (x0 + c) ↔ spriteColOf x0 col = c := by
  rw [← Fin.val_inj, Fin.val_ofNat, spriteColOf]; omega

theorem eq_row_iff (y0 r : Nat) (hr : r < 32) (row : Fin 32) :
    row = Fin.ofNat 32 (y0 + r) ↔ spriteRowOf y0 row = r := by
  rw [← Fin.val_inj, Fin.val_ofNat, spriteRowOf]; omega

/-- The bit of a sprite row, its first `m` columns, that falls on a display column. -/
def rowCovers (b : Byte) (m x0 : Nat) (col : Fin 64) : Bool :=
  decide (spriteColOf x0 col < m) && spriteBit b (spriteColOf x0 col)

theorem rowCovers_succ (b : Byte) (m x0 : Nat) (col : Fin 64) :
    rowCovers b (m + 1) x0 col = if spriteColOf x0 col = m then spriteBit b m else rowCovers b m x0 col := by
  simp only [rowCovers]
  split
  · next h => simp [h]
  · next h =>
    have : spriteColOf x0 col < m + 1 ↔ spriteColOf x0 col < m := by omega
    simp [this]

theorem rowCovers_at (b : Byte) (m x0 : Nat) (col : Fin 64) (h : spriteColOf x0 col = m) : rowCovers b m x0 col = false := by
  simp [rowCovers, h]

/-- One set bit of a sprite (R192, R195). -/
theorem xorPixel_pixel (row r : Fin 32) (col c : Fin 64) (d : Drawing) :
    Display.pixel (xorPixel row col d).1 r c = (Display.pixel d.1 r c ^^ (decide (r = row) && decide (c = col))) := by
  rw [xorPixel, Display.setPixel_pixel]
  by_cases h : r = row ∧ c = col
  · obtain ⟨rfl, rfl⟩ := h; simp
  · rw [if_neg h]
    have : (decide (r = row) && decide (c = col)) = false := by simpa using h
    simp [this]

theorem xorPixel_collision (row : Fin 32) (col : Fin 64) (d : Drawing) :
    (xorPixel row col d).2 = (d.2 || Display.pixel d.1 row col) := rfl

/-- The first `m` columns of a sprite row. -/
def drawCols (b : Byte) (x0 : Nat) (py : Fin 32) (m : Nat) (d : Drawing) : Drawing :=
  (List.range m).foldl (fun d c => if spriteBit b c then xorPixel py (Fin.ofNat 64 (x0 + c)) d else d) d

theorem drawCols_succ (b : Byte) (x0 : Nat) (py : Fin 32) (m : Nat) (d : Drawing) :
    drawCols b x0 py (m + 1) d =
      if spriteBit b m then xorPixel py (Fin.ofNat 64 (x0 + m)) (drawCols b x0 py m d) else drawCols b x0 py m d := by
  simp only [drawCols, List.range_succ, List.foldl_append, List.foldl_cons, List.foldl_nil]

theorem drawCols_pixel (b : Byte) (x0 : Nat) (py : Fin 32) (m : Nat) (hm : m ≤ 64) (d : Drawing) (row : Fin 32) (col : Fin 64) :
    Display.pixel (drawCols b x0 py m d).1 row col = (Display.pixel d.1 row col ^^ (decide (row = py) && rowCovers b m x0 col)) := by
  induction m with
  | zero => simp [drawCols, rowCovers]
  | succ m ih =>
    have ih := ih (by omega)
    rw [drawCols_succ, rowCovers_succ]
    by_cases hb : spriteBit b m = true
    · rw [if_pos hb, xorPixel_pixel, ih]
      simp only [eq_column_iff x0 m (by omega), hb]
      by_cases hk : spriteColOf x0 col = m
      · rw [rowCovers_at b m x0 col hk]; simp [hk]
      · simp [hk]
    · rw [if_neg hb, ih]
      by_cases hk : spriteColOf x0 col = m
      · rw [rowCovers_at b m x0 col hk]; simp [hk, hb]
      · simp [hk]

theorem drawCols_collision (b : Byte) (x0 : Nat) (py : Fin 32) (m : Nat) (hm : m ≤ 64) (d : Drawing) :
    (drawCols b x0 py m d).2 = true ↔
      d.2 = true ∨ ∃ col, rowCovers b m x0 col = true ∧ Display.pixel d.1 py col = true := by
  induction m with
  | zero => simp [drawCols, rowCovers]
  | succ m ih =>
    have ih := ih (by omega)
    have old : ∀ col, spriteColOf x0 col = m → Display.pixel (drawCols b x0 py m d).1 py col = Display.pixel d.1 py col :=
      fun col hk => by rw [drawCols_pixel b x0 py m (by omega), rowCovers_at b m x0 col hk]; simp
    have only := eq_column_iff x0 m (by omega)
    have at_m := (only (Fin.ofNat 64 (x0 + m))).1 rfl
    rw [drawCols_succ]
    by_cases hb : spriteBit b m = true
    · rw [if_pos hb, xorPixel_collision, Bool.or_eq_true, ih, old _ at_m]
      simp only [rowCovers_succ]
      constructor
      · rintro ((h | ⟨col, hon, hp⟩) | h)
        · exact .inl h
        · exact .inr ⟨col, by by_cases hk : spriteColOf x0 col = m <;> simp [hk, hb, hon], hp⟩
        · exact .inr ⟨_, by rw [if_pos at_m]; exact hb, h⟩
      · rintro (h | ⟨col, hon, hp⟩)
        · exact .inl (.inl h)
        · by_cases hk : spriteColOf x0 col = m
          · rw [← (only col).2 hk]; exact .inr hp
          · rw [if_neg hk] at hon; exact .inl (.inr ⟨col, hon, hp⟩)
    · rw [if_neg hb, ih]
      have same : ∀ col, rowCovers b (m + 1) x0 col = rowCovers b m x0 col := fun col => by
        rw [rowCovers_succ]
        split
        · next hk => rw [rowCovers_at b m x0 col hk]; simpa using hb
        · rfl
      simp only [same]

/-! ### Whole sprites -/

theorem spriteCovers_succ (rows : Nat → Byte) (m x0 y0 : Nat) (row : Fin 32) (col : Fin 64) :
    spriteCovers rows (m + 1) x0 y0 row col =
      if spriteRowOf y0 row = m then rowCovers (rows m) 8 x0 col else spriteCovers rows m x0 y0 row col := by
  simp only [spriteCovers, rowCovers, spriteBit]
  split
  · next h => simp [h]
  · next h =>
    have : spriteRowOf y0 row < m + 1 ↔ spriteRowOf y0 row < m := by omega
    simp [this]

theorem spriteCovers_at (rows : Nat → Byte) (m x0 y0 : Nat) (row : Fin 32) (col : Fin 64) (h : spriteRowOf y0 row = m) :
    spriteCovers rows m x0 y0 row col = false := by
  simp [spriteCovers, h]

theorem drawSprite_succ (rows : Nat → Byte) (m x0 y0 : Nat) (d : Drawing) :
    drawSprite rows (m + 1) x0 y0 d = drawCols (rows m) x0 (Fin.ofNat 32 (y0 + m)) 8 (drawSprite rows m x0 y0 d) := by
  simp only [drawSprite, List.range_succ, List.foldl_append, List.foldl_cons, List.foldl_nil]; rfl

/-- Each pixel is inverted exactly when the sprite covers it (R192, R194). -/
theorem drawSprite_pixel (rows : Nat → Byte) (m x0 y0 : Nat) (hm : m ≤ 32) (d : Drawing) (row : Fin 32) (col : Fin 64) :
    Display.pixel (drawSprite rows m x0 y0 d).1 row col = (Display.pixel d.1 row col ^^ spriteCovers rows m x0 y0 row col) := by
  induction m with
  | zero => simp [drawSprite, spriteCovers]
  | succ m ih =>
    have ih := ih (by omega)
    rw [drawSprite_succ, drawCols_pixel _ _ _ 8 (by omega), ih, spriteCovers_succ]
    simp only [eq_row_iff y0 m (by omega)]
    by_cases h : spriteRowOf y0 row = m
    · rw [spriteCovers_at rows m x0 y0 row col h]; simp [h]
    · simp [h]

/-- The collision is noted exactly when a covered pixel was set (R195). -/
theorem drawSprite_collision (rows : Nat → Byte) (m x0 y0 : Nat) (hm : m ≤ 32) (d : Drawing) :
    (drawSprite rows m x0 y0 d).2 = true ↔
      d.2 = true ∨ ∃ row col, spriteCovers rows m x0 y0 row col = true ∧ Display.pixel d.1 row col = true := by
  induction m with
  | zero => simp [drawSprite, spriteCovers]
  | succ m ih =>
    have ih := ih (by omega)
    have only := eq_row_iff y0 m (by omega)
    have at_m := (only (Fin.ofNat 32 (y0 + m))).1 rfl
    rw [drawSprite_succ, drawCols_collision _ _ _ 8 (by omega), ih]
    simp only [spriteCovers_succ]
    constructor
    · rintro ((h | ⟨row, col, hcov, hp⟩) | ⟨col, hon, hp⟩)
      · exact .inl h
      · refine .inr ⟨row, col, ?_, hp⟩
        split
        · next h => rw [spriteCovers_at rows m x0 y0 row col h] at hcov; exact absurd hcov (by simp)
        · exact hcov
      · refine .inr ⟨_, col, by rw [if_pos at_m]; exact hon, ?_⟩
        rw [drawSprite_pixel rows m x0 y0 (by omega), spriteCovers_at _ _ _ _ _ _ at_m, Bool.xor_false] at hp
        exact hp
    · rintro (h | ⟨row, col, hcov, hp⟩)
      · exact .inl (.inl h)
      · by_cases h : spriteRowOf y0 row = m
        · rw [if_pos h] at hcov
          refine .inr ⟨col, hcov, ?_⟩
          rw [drawSprite_pixel rows m x0 y0 (by omega), ← (only row).2 h, spriteCovers_at _ _ _ _ _ _ h, Bool.xor_false]
          exact hp
        · rw [if_neg h] at hcov
          exact .inl (.inr ⟨row, col, hcov, hp⟩)

/-- DXYN's drawing (R191 to R194). -/
theorem spriteDrawing_pixel (x y : RegIdx) (n : Fin 16) (s : State) (row : Fin 32) (col : Fin 64) :
    Display.pixel (spriteDrawing x y n s).1 row col =
      (s.pixel row col ^^ spriteCovers (fun r => s.byteAt (s.ea r)) n.val (s.reg x).toNat (s.reg y).toNat row col) :=
  drawSprite_pixel _ n.val _ _ (by omega) (s.disp, false) row col

/-- DXYN's collision (R195). -/
theorem spriteDrawing_collision (x y : RegIdx) (n : Fin 16) (s : State) :
    (spriteDrawing x y n s).2 = true ↔ ∃ row col,
      spriteCovers (fun r => s.byteAt (s.ea r)) n.val (s.reg x).toNat (s.reg y).toNat row col = true ∧ s.pixel row col = true := by
  rw [spriteDrawing, drawSprite_collision _ n.val _ _ (by omega)]
  simp [State.pixel]

end Sys2Proof.Machine
end

