-- ==== Sys2Proof/Laws/Ops.lean ====
section
/-! SUPPORT. The shared operations, each said once: stores and loads of several bytes, the range check, the fault, bytes placed
by the host, the flag write, exact arithmetic, and the released keys. -/

namespace Sys2Proof.Machine

/-! ### Stores of several bytes -/

theorem State.storeBytes_succ (s : State) (n : Nat) (f : Nat → Byte) :
    s.storeBytes (n + 1) f = (s.storeBytes n f).setByte (s.ea n) (f n) := by
  simp [State.storeBytes, List.range_succ]

/-- A store of several bytes changes memory alone. -/
theorem State.storeBytes_eq (s : State) (n : Nat) (f : Nat → Byte) :
    s.storeBytes n f = { s with mem := (s.storeBytes n f).mem } := by
  induction n with
  | zero => rfl
  | succ n ih => rw [State.storeBytes_succ, ih]; rfl

/-- The bytes after a store of `n` bytes in range (R61): the stored ones, and every other as before. -/
theorem State.storeBytes_byteAt (s : State) (n : Nat) (f : Nat → Byte) (hn : n = 0 ∨ s.i.toNat + n ≤ memSize) (a : Nat) :
    (s.storeBytes n f).byteAt a = if s.i.toNat ≤ a ∧ a < s.i.toNat + n then f (a - s.i.toNat) else s.byteAt a := by
  induction n with
  | zero => rw [if_neg (by omega)]; rfl
  | succ n ih =>
    rw [State.storeBytes_succ, State.byteAt, State.setByte_mem,
      Memory.read_write _ _ _ _ (by simp only [State.ea]; omega)]
    by_cases h : a = s.ea n
    · rw [if_pos h]; subst h
      rw [if_pos (by simp only [State.ea]; omega)]
      congr 1; simp only [State.ea]; omega
    · rw [if_neg h]
      refine (ih (by omega)).trans ?_
      simp only [State.ea] at h
      by_cases h2 : s.i.toNat ≤ a ∧ a < s.i.toNat + n
      · rw [if_pos h2, if_pos (by omega)]
      · rw [if_neg h2, if_neg (by omega)]

/-- The same, for a list of the bytes stored: each address holds the stored byte or the older one. -/
theorem State.storeBytes_byteAfterStore (s : State) (bytes : List Byte) (f : Nat → Byte)
    (hf : ∀ k (h : k < bytes.length), f k = bytes[k]) (hn : AccessInRange s bytes.length) (a : Nat) :
    (s.storeBytes bytes.length f).byteAt a = byteAfterStore s bytes a := by
  rw [State.storeBytes_byteAt _ _ _ hn, byteAfterStore]
  by_cases h1 : s.i.toNat ≤ a
  · rw [if_pos h1, List.getD_eq_getElem?_getD]
    by_cases h2 : a < s.i.toNat + bytes.length
    · rw [if_pos ⟨h1, h2⟩, hf _ (by omega), List.getElem?_eq_getElem (by omega)]; rfl
    · rw [if_neg (by omega), List.getElem?_eq_none (by omega)]; rfl
  · rw [if_neg h1, if_neg (by omega)]

/-- Whatever the addresses, a store of several bytes keeps the canonical form. -/
theorem State.storeBytes_wf (s : State) (n : Nat) (f : Nat → Byte) (h : Memory.wf s.mem) :
    Memory.wf (s.storeBytes n f).mem := by
  induction n with
  | zero => exact h
  | succ n ih => rw [State.storeBytes_succ]; exact Memory.wf_write ih _ _

/-! ### Loads of several registers -/

theorem State.loadRegs_succ (s : State) (n : Nat) :
    s.loadRegs (n + 1) = (s.loadRegs n).setReg (Fin.ofNat 16 n) (s.byteAt (s.ea n)) := by
  simp [State.loadRegs, List.range_succ]

/-- A load changes registers alone. -/
theorem State.loadRegs_eq (s : State) (n : Nat) : s.loadRegs n = { s with v := (s.loadRegs n).v } := by
  induction n with
  | zero => rfl
  | succ n ih => rw [State.loadRegs_succ, ih]; rfl

/-- The registers after a load of `n` registers (R61, R177). -/
theorem State.loadRegs_reg (s : State) (n : Nat) (hn : n ≤ 16) (r : RegIdx) :
    (s.loadRegs n).reg r = if r.val < n then s.byteAt (s.ea r.val) else s.reg r := by
  induction n with
  | zero => rw [if_neg (by omega)]; rfl
  | succ n ih =>
    rw [State.loadRegs_succ, State.setReg_reg, ih (by omega)]
    have hr : r = Fin.ofNat 16 n ↔ r.val = n := by
      rw [← Fin.val_inj, Fin.val_ofNat, Nat.mod_eq_of_lt (by omega)]
    by_cases h : r.val = n
    · rw [if_pos (hr.2 h), if_pos (by omega), h]
    · rw [if_neg (mt hr.1 h)]
      by_cases h2 : r.val < n
      · rw [if_pos h2, if_pos (by omega)]
      · rw [if_neg h2, if_neg (by omega)]

/-! ### Bytes placed by the host -/

/-- Placing bytes changes memory alone. -/
theorem State.placeWord_eq (s : State) (a : Nat) (bs : List Byte) :
    s.placeWord a bs = { s with mem := (s.placeWord a bs).mem } := by
  induction bs generalizing s a with
  | nil => rfl
  | cons b bs ih => rw [State.placeWord, ih]; rfl

/-- Placing bytes keeps the canonical form. -/
theorem State.placeWord_wf (s : State) (a : Nat) (bs : List Byte) (h : Memory.wf s.mem) :
    Memory.wf (s.placeWord a bs).mem := by
  induction bs generalizing s a with
  | nil => exact h
  | cons b bs ih => rw [State.placeWord]; exact ih _ _ (Memory.wf_write h _ _)

/-- Placing bytes leaves every other address alone. -/
theorem State.placeWord_byteAt_other (s : State) (a : Nat) (bs : List Byte) (a' : Nat) (h : a' < a ∨ a + bs.length ≤ a') :
    (s.placeWord a bs).byteAt a' = s.byteAt a' := by
  induction bs generalizing s a with
  | nil => rfl
  | cons b bs ih =>
    simp only [List.length_cons] at h
    rw [State.placeWord, ih _ _ (by omega)]
    exact Memory.read_write_other _ _ _ _ (by omega)

/-- Each byte placed inside memory reads back. -/
theorem State.placeWord_byteAt (s : State) (a : Nat) (bs : List Byte) (k : Nat) (hk : k < bs.length)
    (h : a + bs.length ≤ memSize) : (s.placeWord a bs).byteAt (a + k) = bs[k] := by
  induction bs generalizing s a k with
  | nil => simp at hk
  | cons b bs ih =>
    simp only [List.length_cons] at h hk
    rw [State.placeWord]
    cases k with
    | zero =>
      rw [State.placeWord_byteAt_other _ _ _ _ (by omega), State.byteAt, State.setByte_mem, Memory.read_write _ _ _ _ (by omega)]
      simp
    | succ k => rw [show a + (k + 1) = a + 1 + k by omega, ih _ _ _ (by omega) (by omega)]; rfl

/-! ### The fault -/

/-- Raising a fault answers the recorded state and nothing else (R246, R247). -/
theorem raiseFault_eq (code : FaultCode) (addr : Nat) (s : State) :
    raiseFault code addr s = .next (s.rewindPc.recordFault code addr) := rfl

/-- What the recorded state holds. -/
theorem recordFault_faulted (code : FaultCode) (addr : Nat) (s : State) (ha : addr < 2 ^ 17) :
    Faulted code addr s (s.rewindPc.recordFault code addr) := by
  refine ⟨rfl, rfl, rfl, ?_, ?_⟩
  · simp only [State.recordFault_fault, BitVec.toNat_ofNat]; exact Nat.mod_eq_of_lt ha
  · simp [Frame]

/-- The range check in range: the body (R55). -/
theorem checkAccess_in_range (code : FaultCode) (n : Nat) (s body : State) (h : n = 0 ∨ s.i.toNat + n ≤ memSize) :
    checkAccess code n s body = .next body := by
  simp [checkAccess, (firstOutOfRange_none _ _).2 h]

/-- The range check out of range: the fault at the lowest address above 0xFFF (R245). -/
theorem checkAccess_out_of_range (code : FaultCode) (n : Nat) (s body : State) (h : n ≠ 0) (h' : memSize < s.i.toNat + n) :
    checkAccess code n s body = .next (s.rewindPc.recordFault code (max s.i.toNat memSize)) := by
  simp [checkAccess, (firstOutOfRange_some _ _ _).2 ⟨h, h', rfl⟩, raiseFault]

/-- The range check has these two answers. -/
theorem checkAccess_cases (code : FaultCode) (n : Nat) (s body : State) :
    ((n = 0 ∨ s.i.toNat + n ≤ memSize) ∧ checkAccess code n s body = .next body) ∨
    (n ≠ 0 ∧ memSize < s.i.toNat + n ∧
      checkAccess code n s body = .next (s.rewindPc.recordFault code (max s.i.toNat memSize))) := by
  by_cases h : n = 0 ∨ s.i.toNat + n ≤ memSize
  · exact .inl ⟨h, checkAccess_in_range code n s body h⟩
  · exact .inr ⟨by omega, by omega, checkAccess_out_of_range code n s body (by omega) (by omega)⟩

/-! ### The flag write -/

/-- Result and flag under FlagLast (R140; log 6): VF holds the flag, whatever X is. -/
theorem writeResultAndFlag_reg (x : RegIdx) (b : Byte) (f : Bool) (s : State) (r : RegIdx) :
    (writeResultAndFlag x b f s).reg r = if r = regVF then flagByte f else if r = x then b else s.reg r := by
  simp only [writeResultAndFlag, Params.flagOrder, writeResultAndFlagWith, State.setReg_reg]

/-- The flag write changes registers alone. -/
theorem writeResultAndFlag_eq (x : RegIdx) (b : Byte) (f : Bool) (s : State) :
    writeResultAndFlag x b f s = { s with v := (writeResultAndFlag x b f s).v } := rfl

/-! ### What these operations leave, field by field -/

/-! #### storeBytes -/

@[simp] theorem State.storeBytes_v (s : State) (n : Nat) (f : Nat → Byte) : (s.storeBytes n f).v = s.v := by rw [State.storeBytes_eq]
@[simp] theorem State.storeBytes_i (s : State) (n : Nat) (f : Nat → Byte) : (s.storeBytes n f).i = s.i := by rw [State.storeBytes_eq]
@[simp] theorem State.storeBytes_pc (s : State) (n : Nat) (f : Nat → Byte) : (s.storeBytes n f).pc = s.pc := by rw [State.storeBytes_eq]
@[simp] theorem State.storeBytes_sp (s : State) (n : Nat) (f : Nat → Byte) : (s.storeBytes n f).sp = s.sp := by rw [State.storeBytes_eq]
@[simp] theorem State.storeBytes_stack (s : State) (n : Nat) (f : Nat → Byte) : (s.storeBytes n f).stack = s.stack := by rw [State.storeBytes_eq]
@[simp] theorem State.storeBytes_dt (s : State) (n : Nat) (f : Nat → Byte) : (s.storeBytes n f).dt = s.dt := by rw [State.storeBytes_eq]
@[simp] theorem State.storeBytes_st (s : State) (n : Nat) (f : Nat → Byte) : (s.storeBytes n f).st = s.st := by rw [State.storeBytes_eq]
@[simp] theorem State.storeBytes_disp (s : State) (n : Nat) (f : Nat → Byte) : (s.storeBytes n f).disp = s.disp := by rw [State.storeBytes_eq]
@[simp] theorem State.storeBytes_drawFlag (s : State) (n : Nat) (f : Nat → Byte) : (s.storeBytes n f).drawFlag = s.drawFlag := by rw [State.storeBytes_eq]
@[simp] theorem State.storeBytes_keys (s : State) (n : Nat) (f : Nat → Byte) : (s.storeBytes n f).keys = s.keys := by rw [State.storeBytes_eq]
@[simp] theorem State.storeBytes_keysPrev (s : State) (n : Nat) (f : Nat → Byte) : (s.storeBytes n f).keysPrev = s.keysPrev := by rw [State.storeBytes_eq]
@[simp] theorem State.storeBytes_fault (s : State) (n : Nat) (f : Nat → Byte) : (s.storeBytes n f).fault = s.fault := by rw [State.storeBytes_eq]
@[simp] theorem State.storeBytes_beep (s : State) (n : Nat) (f : Nat → Byte) : (s.storeBytes n f).beep = s.beep := by rw [State.storeBytes_eq]
@[simp] theorem State.storeBytes_keyInputs (s : State) (n : Nat) (f : Nat → Byte) : (s.storeBytes n f).keyInputs = s.keyInputs := by rw [State.storeBytes_eq]
@[simp] theorem State.storeBytes_draws (s : State) (n : Nat) (f : Nat → Byte) : (s.storeBytes n f).draws = s.draws := by rw [State.storeBytes_eq]
@[simp] theorem State.storeBytes_reg (s : State) (n : Nat) (f : Nat → Byte) (r' : RegIdx) : (s.storeBytes n f).reg r' = s.reg r' := by rw [State.storeBytes_eq]; rfl
@[simp] theorem State.storeBytes_pixel (s : State) (n : Nat) (f : Nat → Byte) (row : Fin 32) (col : Fin 64) : (s.storeBytes n f).pixel row col = s.pixel row col := by rw [State.storeBytes_eq]; rfl

/-! #### loadRegs -/

@[simp] theorem State.loadRegs_i (s : State) (n : Nat) : (s.loadRegs n).i = s.i := by rw [State.loadRegs_eq]
@[simp] theorem State.loadRegs_pc (s : State) (n : Nat) : (s.loadRegs n).pc = s.pc := by rw [State.loadRegs_eq]
@[simp] theorem State.loadRegs_sp (s : State) (n : Nat) : (s.loadRegs n).sp = s.sp := by rw [State.loadRegs_eq]
@[simp] theorem State.loadRegs_stack (s : State) (n : Nat) : (s.loadRegs n).stack = s.stack := by rw [State.loadRegs_eq]
@[simp] theorem State.loadRegs_dt (s : State) (n : Nat) : (s.loadRegs n).dt = s.dt := by rw [State.loadRegs_eq]
@[simp] theorem State.loadRegs_st (s : State) (n : Nat) : (s.loadRegs n).st = s.st := by rw [State.loadRegs_eq]
@[simp] theorem State.loadRegs_mem (s : State) (n : Nat) : (s.loadRegs n).mem = s.mem := by rw [State.loadRegs_eq]
@[simp] theorem State.loadRegs_disp (s : State) (n : Nat) : (s.loadRegs n).disp = s.disp := by rw [State.loadRegs_eq]
@[simp] theorem State.loadRegs_drawFlag (s : State) (n : Nat) : (s.loadRegs n).drawFlag = s.drawFlag := by rw [State.loadRegs_eq]
@[simp] theorem State.loadRegs_keys (s : State) (n : Nat) : (s.loadRegs n).keys = s.keys := by rw [State.loadRegs_eq]
@[simp] theorem State.loadRegs_keysPrev (s : State) (n : Nat) : (s.loadRegs n).keysPrev = s.keysPrev := by rw [State.loadRegs_eq]
@[simp] theorem State.loadRegs_fault (s : State) (n : Nat) : (s.loadRegs n).fault = s.fault := by rw [State.loadRegs_eq]
@[simp] theorem State.loadRegs_beep (s : State) (n : Nat) : (s.loadRegs n).beep = s.beep := by rw [State.loadRegs_eq]
@[simp] theorem State.loadRegs_keyInputs (s : State) (n : Nat) : (s.loadRegs n).keyInputs = s.keyInputs := by rw [State.loadRegs_eq]
@[simp] theorem State.loadRegs_draws (s : State) (n : Nat) : (s.loadRegs n).draws = s.draws := by rw [State.loadRegs_eq]
@[simp] theorem State.loadRegs_byteAt (s : State) (n : Nat) (a' : Nat) : (s.loadRegs n).byteAt a' = s.byteAt a' := by rw [State.loadRegs_eq]; rfl
@[simp] theorem State.loadRegs_pixel (s : State) (n : Nat) (row : Fin 32) (col : Fin 64) : (s.loadRegs n).pixel row col = s.pixel row col := by rw [State.loadRegs_eq]; rfl

/-! #### placeWord -/

@[simp] theorem State.placeWord_v (s : State) (b : Nat) (bs : List Byte) : (s.placeWord b bs).v = s.v := by rw [State.placeWord_eq]
@[simp] theorem State.placeWord_i (s : State) (b : Nat) (bs : List Byte) : (s.placeWord b bs).i = s.i := by rw [State.placeWord_eq]
@[simp] theorem State.placeWord_pc (s : State) (b : Nat) (bs : List Byte) : (s.placeWord b bs).pc = s.pc := by rw [State.placeWord_eq]
@[simp] theorem State.placeWord_sp (s : State) (b : Nat) (bs : List Byte) : (s.placeWord b bs).sp = s.sp := by rw [State.placeWord_eq]
@[simp] theorem State.placeWord_stack (s : State) (b : Nat) (bs : List Byte) : (s.placeWord b bs).stack = s.stack := by rw [State.placeWord_eq]
@[simp] theorem State.placeWord_dt (s : State) (b : Nat) (bs : List Byte) : (s.placeWord b bs).dt = s.dt := by rw [State.placeWord_eq]
@[simp] theorem State.placeWord_st (s : State) (b : Nat) (bs : List Byte) : (s.placeWord b bs).st = s.st := by rw [State.placeWord_eq]
@[simp] theorem State.placeWord_disp (s : State) (b : Nat) (bs : List Byte) : (s.placeWord b bs).disp = s.disp := by rw [State.placeWord_eq]
@[simp] theorem State.placeWord_drawFlag (s : State) (b : Nat) (bs : List Byte) : (s.placeWord b bs).drawFlag = s.drawFlag := by rw [State.placeWord_eq]
@[simp] theorem State.placeWord_keys (s : State) (b : Nat) (bs : List Byte) : (s.placeWord b bs).keys = s.keys := by rw [State.placeWord_eq]
@[simp] theorem State.placeWord_keysPrev (s : State) (b : Nat) (bs : List Byte) : (s.placeWord b bs).keysPrev = s.keysPrev := by rw [State.placeWord_eq]
@[simp] theorem State.placeWord_fault (s : State) (b : Nat) (bs : List Byte) : (s.placeWord b bs).fault = s.fault := by rw [State.placeWord_eq]
@[simp] theorem State.placeWord_beep (s : State) (b : Nat) (bs : List Byte) : (s.placeWord b bs).beep = s.beep := by rw [State.placeWord_eq]
@[simp] theorem State.placeWord_keyInputs (s : State) (b : Nat) (bs : List Byte) : (s.placeWord b bs).keyInputs = s.keyInputs := by rw [State.placeWord_eq]
@[simp] theorem State.placeWord_draws (s : State) (b : Nat) (bs : List Byte) : (s.placeWord b bs).draws = s.draws := by rw [State.placeWord_eq]
@[simp] theorem State.placeWord_reg (s : State) (b : Nat) (bs : List Byte) (r' : RegIdx) : (s.placeWord b bs).reg r' = s.reg r' := by rw [State.placeWord_eq]; rfl
@[simp] theorem State.placeWord_pixel (s : State) (b : Nat) (bs : List Byte) (row : Fin 32) (col : Fin 64) : (s.placeWord b bs).pixel row col = s.pixel row col := by rw [State.placeWord_eq]; rfl

/-! #### writeResultAndFlag -/

@[simp] theorem writeResultAndFlag_i (s : State) (x : RegIdx) (b : Byte) (f : Bool) : (writeResultAndFlag x b f s).i = s.i := rfl
@[simp] theorem writeResultAndFlag_pc (s : State) (x : RegIdx) (b : Byte) (f : Bool) : (writeResultAndFlag x b f s).pc = s.pc := rfl
@[simp] theorem writeResultAndFlag_sp (s : State) (x : RegIdx) (b : Byte) (f : Bool) : (writeResultAndFlag x b f s).sp = s.sp := rfl
@[simp] theorem writeResultAndFlag_stack (s : State) (x : RegIdx) (b : Byte) (f : Bool) : (writeResultAndFlag x b f s).stack = s.stack := rfl
@[simp] theorem writeResultAndFlag_dt (s : State) (x : RegIdx) (b : Byte) (f : Bool) : (writeResultAndFlag x b f s).dt = s.dt := rfl
@[simp] theorem writeResultAndFlag_st (s : State) (x : RegIdx) (b : Byte) (f : Bool) : (writeResultAndFlag x b f s).st = s.st := rfl
@[simp] theorem writeResultAndFlag_mem (s : State) (x : RegIdx) (b : Byte) (f : Bool) : (writeResultAndFlag x b f s).mem = s.mem := rfl
@[simp] theorem writeResultAndFlag_disp (s : State) (x : RegIdx) (b : Byte) (f : Bool) : (writeResultAndFlag x b f s).disp = s.disp := rfl
@[simp] theorem writeResultAndFlag_drawFlag (s : State) (x : RegIdx) (b : Byte) (f : Bool) : (writeResultAndFlag x b f s).drawFlag = s.drawFlag := rfl
@[simp] theorem writeResultAndFlag_keys (s : State) (x : RegIdx) (b : Byte) (f : Bool) : (writeResultAndFlag x b f s).keys = s.keys := rfl
@[simp] theorem writeResultAndFlag_keysPrev (s : State) (x : RegIdx) (b : Byte) (f : Bool) : (writeResultAndFlag x b f s).keysPrev = s.keysPrev := rfl
@[simp] theorem writeResultAndFlag_fault (s : State) (x : RegIdx) (b : Byte) (f : Bool) : (writeResultAndFlag x b f s).fault = s.fault := rfl
@[simp] theorem writeResultAndFlag_beep (s : State) (x : RegIdx) (b : Byte) (f : Bool) : (writeResultAndFlag x b f s).beep = s.beep := rfl
@[simp] theorem writeResultAndFlag_keyInputs (s : State) (x : RegIdx) (b : Byte) (f : Bool) : (writeResultAndFlag x b f s).keyInputs = s.keyInputs := rfl
@[simp] theorem writeResultAndFlag_draws (s : State) (x : RegIdx) (b : Byte) (f : Bool) : (writeResultAndFlag x b f s).draws = s.draws := rfl
@[simp] theorem writeResultAndFlag_byteAt (s : State) (x : RegIdx) (b : Byte) (f : Bool) (a' : Nat) : (writeResultAndFlag x b f s).byteAt a' = s.byteAt a' := rfl
@[simp] theorem writeResultAndFlag_pixel (s : State) (x : RegIdx) (b : Byte) (f : Bool) (row : Fin 32) (col : Fin 64) : (writeResultAndFlag x b f s).pixel row col = s.pixel row col := rfl

/-! ### Arithmetic, exactly -/

theorem addResult_toNat (a b : Byte) : (addResult a b).toNat = (a.toNat + b.toNat) % 256 := by
  simp [addResult]

theorem subResult_toNat (a b : Byte) : (subResult a b).toNat = (a.toNat + 256 - b.toNat) % 256 := by
  simp only [subResult, BitVec.toNat_ofInt]; omega

theorem shrResult_toNat (a : Byte) : (shrResult a).toNat = a.toNat / 2 := by
  simp [shrResult, Nat.shiftRight_eq_div_pow]

theorem shlResult_toNat (a : Byte) : (shlResult a).toNat = 2 * a.toNat % 256 := by
  simp only [shlResult, BitVec.toNat_shiftLeft, Nat.shiftLeft_eq]; omega

theorem shrOut_eq (a : Byte) : shrOut a = decide (a.toNat % 2 = 1) := by
  simp [shrOut, BitVec.getLsbD, Nat.testBit_zero]

theorem shlOut_eq (a : Byte) : shlOut a = decide (128 ≤ a.toNat) := by
  have := a.isLt
  simp only [shlOut, BitVec.getLsbD, Nat.testBit_eq_decide_div_mod_eq]
  congr 1; simp only [eq_iff_iff]; omega

theorem addrOf_toNat (nnn : Addr12) : (addrOf nnn).toNat = nnn.toNat := by
  simp only [addrOf, BitVec.toNat_setWidth]; omega

theorem wide_toNat (b : Byte) : (wide b).toNat = b.toNat := by
  simp only [wide, BitVec.toNat_setWidth]; omega

theorem jumpOffsetTarget_toNat (nnn : Addr12) (b : Byte) : (jumpOffsetTarget nnn b).toNat = nnn.toNat + b.toNat := by
  simp only [jumpOffsetTarget, BitVec.toNat_add, addrOf_toNat, wide_toNat]; omega

theorem glyphAddr_toNat (b : Byte) : (glyphAddr b).toNat = 5 * b.toNat := by
  simp only [glyphAddr, Params.fontIndexMode, glyphAddrWith, BitVec.toNat_mul, wide_toNat,
    show (5 : Word).toNat = 5 from rfl]
  omega

/-! ### Keys -/

/-- The released keys are those of R32. -/
theorem mem_releasedKeys (s : State) (k : KeyIdx) : k ∈ releasedKeys s ↔ s.keysPrev[k] = true ∧ s.keys[k] = false := by
  simp [releasedKeys, keyReleased]

/-- The key picked is one of those offered, whatever the free value (R216). -/
theorem pickKey_mem (draw : Nat) (k : KeyIdx) (ks : List KeyIdx) : pickKey draw k ks ∈ k :: ks := by
  unfold pickKey
  split
  · exact List.mem_cons_self
  · exact List.getElem_mem _

end Sys2Proof.Machine
end

