-- ==== Sys2Proof/Laws/Exec.lean ====
section
/-! SUPPORT. Everything an instruction can do, said once: it answers a next state, that state is the instruction's own or a recorded fault
of the table of R241, and it differs from the one before only in what `touched` names. -/

namespace Sys2Proof.Machine

/-! ### The frames of the shared operations -/

theorem frame_refl (w : Touched) (s : State) : Frame w s s := by simp [Frame]

theorem frame_writeResultAndFlag (x : RegIdx) (b : Byte) (f : Bool) (s : State) :
    Frame { regs := [x, 15] } s (writeResultAndFlag x b f s) := by
  simp +contextual [Frame, writeResultAndFlag_reg]

theorem frame_storeBytes (s : State) (n : Nat) (f : Nat → Byte) (h : AccessInRange s n) :
    Frame { mem := (List.range n).map s.ea } s (s.storeBytes n f) := by
  simp only [Frame, State.storeBytes_byteAt s n f h]
  simp
  intro a ha h1 h2
  exact absurd (ha (a - s.i.toNat) (by omega)) (by simp [State.ea]; omega)

theorem frame_loadRegs (s : State) (n : Nat) (hn : n ≤ 16) :
    Frame { regs := (List.finRange 16).filter (fun r => r.val < n) } s (s.loadRegs n) := by
  simp [Frame]
  intro r hr
  rw [State.loadRegs_reg _ _ hn, if_neg (by omega)]

theorem frame_putDrawing (s : State) (d : Drawing) :
    Frame { regs := [15], disp := true, drawFlag := true } s (s.putDrawing d) := by
  simp +contextual [Frame, State.putDrawing_reg]

theorem frame_recordFault (code : FaultCode) (addr : Nat) (s : State) :
    Frame { pc := true, fault := true } s (s.rewindPc.recordFault code addr) := by
  simp [Frame]

/-! ### The skip and the keys -/

theorem skipsWhen_skipIf (s : State) (c : Prop) (b : Bool) (h : b = true ↔ c) : SkipsWhen c s (.next (s.skipIf b)) := by
  refine ⟨_, rfl, ?_, ?_, ?_⟩ <;> rw [State.skipIf_eq]
  · intro hc; simp [h.2 hc]
  · intro hc; simp [mt h.1 hc]
  · simp [Frame]

theorem keyPressed_iff (s : State) (b : Byte) : keyPressed b s = true ↔ KeyHeld s b := by
  unfold keyPressed KeyHeld
  split
  · next h =>
    constructor
    · intro hk; exact ⟨⟨b.toNat, h⟩, rfl, hk⟩
    · rintro ⟨k, hk, hp⟩
      have : k = ⟨b.toNat, h⟩ := Fin.ext hk.symm
      subst this; exact hp
  · next h =>
    constructor
    · intro hk; exact absurd hk (by simp)
    · rintro ⟨k, hk, -⟩; exact absurd k.isLt (by omega)

/-! ### One instruction -/

/-- Every instruction answers a next state (R240: a fault is one that holds its record). -/
theorem exec_total (i : Instr) (s : State) : ∃ t, exec i s = .next t := by
  cases i <;> simp only [exec]
  case ret => unfold execRet; split <;> exact ⟨_, rfl⟩
  case call => unfold execCall; split <;> exact ⟨_, rfl⟩
  case drw x y n => unfold execDrw checkAccess; split <;> exact ⟨_, rfl⟩
  case ldBVx x => unfold execLdBVx checkAccess; split <;> exact ⟨_, rfl⟩
  case ldMiVx x => unfold execLdMiVx checkAccess; split <;> exact ⟨_, rfl⟩
  case ldVxMi x => unfold execLdVxMi checkAccess; split <;> exact ⟨_, rfl⟩
  case ldVxK x => unfold execLdVxK; split <;> exact ⟨_, rfl⟩
  all_goals exact ⟨_, rfl⟩

/-- The faults an instruction raises in a state, with the recorded address: the rows of the table of R241, but for the fetch. -/
inductive Raises : Instr → State → FaultCode → Nat → Prop
  | ret {s : State} : s.sp.val = 0 → Raises .ret s .stackUnderflow 0
  | call {s : State} {nnn : Addr12} : s.sp.val = 32 → Raises (.call nnn) s .stackOverflow 0
  | drw {s : State} {x y : RegIdx} {n : Fin 16} : ¬ AccessInRange s n.val →
      Raises (.drw x y n) s .readFault (max s.i.toNat 0x1000)
  | ldVxMi {s : State} {x : RegIdx} : ¬ AccessInRange s (x.val + 1) → Raises (.ldVxMi x) s .readFault (max s.i.toNat 0x1000)
  | ldBVx {s : State} {x : RegIdx} : ¬ AccessInRange s 3 → Raises (.ldBVx x) s .writeFault (max s.i.toNat 0x1000)
  | ldMiVx {s : State} {x : RegIdx} : ¬ AccessInRange s x.val → Raises (.ldMiVx x) s .writeFault (max s.i.toNat 0x1000)

theorem Raises.code_ne {i : Instr} {s : State} {c : FaultCode} {a : Nat} (h : Raises i s c a) : c ≠ .none := by
  cases h <;> simp

theorem Raises.legal {i : Instr} {s : State} {c : FaultCode} {a : Nat} (h : Raises i s c a) (pc : Word) :
    latchLegal { code := c, pc := pc, addr := BitVec.ofNat 17 a } pc := by
  have hi := s.i.isLt
  cases h <;> simp only [latchLegal, true_and, BitVec.toNat_ofNat]
  case ret => rfl
  case call => rfl
  all_goals
    rename_i h
    unfold AccessInRange at h
    omega

/-- What an instruction's own effect may change: its destinations, VF where it writes it, and the pieces of state named here. -/
def touched (i : Instr) (s : State) : Touched :=
  match i with
  | .cls => { disp := true }
  | .ret | .call _ => { pc := true, stack := true }
  | .sys _ | .unknown _ => {}
  | .jp _ | .jpV0 _ | .seImm _ _ | .sneImm _ _ | .seReg _ _ | .sneReg _ _ | .skp _ | .sknp _ => { pc := true }
  | .ldImm x _ | .addImm x _ | .ldReg x _ | .or x _ | .and x _ | .xor x _ | .ldVxDt x => { regs := [x] }
  | .addReg x _ | .sub x _ | .subn x _ | .shr x _ | .shl x _ => { regs := [x, 15] }
  | .rnd x _ => { regs := [x], draws := true }
  | .ldVxK x => { regs := [x], pc := true, draws := true }
  | .ldI _ | .addIVx _ | .ldFVx _ => { i := true }
  | .ldDtVx _ => { dt := true }
  | .ldStVx _ => { st := true }
  | .ldBVx _ => { mem := [s.ea 0, s.ea 1, s.ea 2] }
  | .ldMiVx x => { mem := (List.range x.val).map s.ea }
  | .ldVxMi x => { regs := (List.finRange 16).filter (fun r => r.val < x.val + 1) }
  | .drw _ _ _ => { regs := [15], disp := true, drawFlag := true }

/-- Everything an instruction can do: its own effect, inside `touched`, or a fault of the table, which writes the latch and PC alone. -/
theorem exec_cases {i : Instr} {s t : State} (h : exec i s = .next t) :
    (Frame (touched i s) s t ∧ t.fault = s.fault) ∨ ∃ c a, Raises i s c a ∧ t = s.rewindPc.recordFault c a := by
  have hsp := s.sp.isLt
  cases i <;> simp only [exec] at h
  case ret =>
    unfold execRet at h; split at h <;> cases h
    · left; simp [touched, Frame]
    · exact .inr ⟨_, _, .ret (by omega), rfl⟩
  case call =>
    unfold execCall at h; split at h <;> cases h
    · left; simp [touched, Frame]
    · exact .inr ⟨_, _, .call (by omega), rfl⟩
  case drw x y n =>
    rcases checkAccess_cases .readFault n.val s (s.putDrawing (spriteDrawing x y n s)) with ⟨-, e⟩ | ⟨h1, h2, e⟩ <;>
      (rw [execDrw, e] at h; cases h)
    · exact .inl ⟨frame_putDrawing _ _, by simp⟩
    · exact .inr ⟨_, _, .drw (fun hr => by unfold AccessInRange at hr; simp only [memSize] at h2; omega), rfl⟩
  case ldBVx x =>
    rw [execLdBVx] at h
    rcases checkAccess_cases .writeFault 3 s (s.storeBytes 3 (bcdDigit (s.reg x))) with ⟨hr, e⟩ | ⟨h1, h2, e⟩ <;>
      (rw [e] at h; cases h)
    · exact .inl ⟨frame_storeBytes s 3 _ hr, by simp⟩
    · exact .inr ⟨_, _, .ldBVx (fun hr => by unfold AccessInRange at hr; simp only [memSize] at h2; omega), rfl⟩
  case ldMiVx x =>
    rw [execLdMiVx] at h
    rcases checkAccess_cases .writeFault x.val s _ with ⟨hr, e⟩ | ⟨h1, h2, e⟩ <;> (rw [e] at h; cases h)
    · exact .inl ⟨frame_storeBytes s _ _ hr, by simp⟩
    · exact .inr ⟨_, _, .ldMiVx (fun hr => by unfold AccessInRange at hr; simp only [memSize] at h2; omega), rfl⟩
  case ldVxMi x =>
    rw [execLdVxMi] at h
    rcases checkAccess_cases .readFault (x.val + 1) s _ with ⟨-, e⟩ | ⟨h1, h2, e⟩ <;> (rw [e] at h; cases h)
    · exact .inl ⟨frame_loadRegs s _ (by omega), by simp⟩
    · exact .inr ⟨_, _, .ldVxMi (fun hr => by unfold AccessInRange at hr; simp only [memSize] at h2; omega), rfl⟩
  case ldVxK x => unfold execLdVxK at h; split at h <;> cases h <;> (left; simp +contextual [touched, Frame])
  all_goals left
  all_goals cases h
  case addReg => exact ⟨frame_writeResultAndFlag _ _ _ _, rfl⟩
  case sub => exact ⟨frame_writeResultAndFlag _ _ _ _, rfl⟩
  case subn => exact ⟨frame_writeResultAndFlag _ _ _ _, rfl⟩
  case shr => exact ⟨frame_writeResultAndFlag _ _ _ _, rfl⟩
  case shl => exact ⟨frame_writeResultAndFlag _ _ _ _, rfl⟩
  case cls => exact ⟨⟨fun _ _ => rfl, fun _ _ => rfl, by simp [touched]⟩, rfl⟩
  case sys => exact ⟨frame_refl _ _, rfl⟩
  case unknown => exact ⟨frame_refl _ _, rfl⟩
  all_goals first
    | (simp +contextual [touched, Frame]; done)
    | (rw [State.skipIf_eq]; simp [touched, Frame])

/-- Execute never writes the key matrices, the beep event or the host's inputs (R31, R32). -/
theorem exec_keys {i : Instr} {s t : State} (h : exec i s = .next t) :
    t.keys = s.keys ∧ t.keysPrev = s.keysPrev ∧ t.beep = s.beep ∧ t.keyInputs = s.keyInputs := by
  rcases exec_cases h with ⟨hf, -⟩ | ⟨c, a, -, rfl⟩
  · exact hf.2.2.2.2.2.2.2.2.2.2.2
  · exact ⟨rfl, rfl, rfl, rfl⟩

end Sys2Proof.Machine
end

