-- ==== Sys2Proof/Laws/PerInstr.lean ====
section
/-! SUPPORT. Claims made for every instruction, one lemma for each constructor. Family TableRow: the word of an instruction has, under the
mask of its row of spec/opcode_table.json, exactly the row's fixed bits (spec 30_encoding.md R77; the patterns are the spec's decision
D11, log 11). -/

namespace Sys2Proof.Laws.TableRow

/-- A row of the opcode table: its mask, and the fixed bits under it. -/
structure Row where
  mask : Word
  fixed : Word

/-- The rows, copied from spec/opcode_table.json. UNKNOWN has no fixed bit. -/
def row : Instr → Row
  | .cls => ⟨0xFFFF#16, 0x00E0#16⟩
  | .ret => ⟨0xFFFF#16, 0x00EE#16⟩
  | .sys _ => ⟨0xF000#16, 0x0000#16⟩
  | .jp _ => ⟨0xF000#16, 0x1000#16⟩
  | .call _ => ⟨0xF000#16, 0x2000#16⟩
  | .seImm _ _ => ⟨0xF000#16, 0x3000#16⟩
  | .sneImm _ _ => ⟨0xF000#16, 0x4000#16⟩
  | .seReg _ _ => ⟨0xF00F#16, 0x5000#16⟩
  | .ldImm _ _ => ⟨0xF000#16, 0x6000#16⟩
  | .addImm _ _ => ⟨0xF000#16, 0x7000#16⟩
  | .ldReg _ _ => ⟨0xF00F#16, 0x8000#16⟩
  | .or _ _ => ⟨0xF00F#16, 0x8001#16⟩
  | .and _ _ => ⟨0xF00F#16, 0x8002#16⟩
  | .xor _ _ => ⟨0xF00F#16, 0x8003#16⟩
  | .addReg _ _ => ⟨0xF00F#16, 0x8004#16⟩
  | .sub _ _ => ⟨0xF00F#16, 0x8005#16⟩
  | .shr _ _ => ⟨0xF00F#16, 0x8006#16⟩
  | .subn _ _ => ⟨0xF00F#16, 0x8007#16⟩
  | .shl _ _ => ⟨0xF00F#16, 0x800E#16⟩
  | .sneReg _ _ => ⟨0xF00F#16, 0x9000#16⟩
  | .ldI _ => ⟨0xF000#16, 0xA000#16⟩
  | .jpV0 _ => ⟨0xF000#16, 0xB000#16⟩
  | .rnd _ _ => ⟨0xF000#16, 0xC000#16⟩
  | .drw _ _ _ => ⟨0xF000#16, 0xD000#16⟩
  | .skp _ => ⟨0xF0FF#16, 0xE09E#16⟩
  | .sknp _ => ⟨0xF0FF#16, 0xE0A1#16⟩
  | .ldVxDt _ => ⟨0xF0FF#16, 0xF007#16⟩
  | .ldVxK _ => ⟨0xF0FF#16, 0xF00A#16⟩
  | .ldDtVx _ => ⟨0xF0FF#16, 0xF015#16⟩
  | .ldStVx _ => ⟨0xF0FF#16, 0xF018#16⟩
  | .addIVx _ => ⟨0xF0FF#16, 0xF01E#16⟩
  | .ldFVx _ => ⟨0xF0FF#16, 0xF029#16⟩
  | .ldBVx _ => ⟨0xF0FF#16, 0xF033#16⟩
  | .ldMiVx _ => ⟨0xF0FF#16, 0xF055#16⟩
  | .ldVxMi _ => ⟨0xF0FF#16, 0xF065#16⟩
  | .unknown _ => ⟨0x0000#16, 0x0000#16⟩

/-- The word of `i` has its row's fixed bits. -/
def Statement (i : Instr) : Prop := encode i &&& (row i).mask = (row i).fixed

/-! ### What a mask leaves of each format (R74) -/

theorem and_nibble (a : BitVec 4) : a &&& 0xF#4 = a := BitVec.and_allOnes

theorem and_byte (a : Byte) : a &&& 0xFF#8 = a := BitVec.and_allOnes

theorem formNNN_mask (h : BitVec 4) (nnn : Addr12) : formNNN h nnn &&& 0xF000#16 = h ++ 0#12 := by
  rw [show (0xF000#16 : Word) = 0xF#4 ++ 0#12 from rfl, formNNN, BitVec.and_append]
  simp [and_nibble]

theorem formXNN_mask (h : BitVec 4) (x : RegIdx) (nn : Byte) : formXNN h x nn &&& 0xF000#16 = h ++ 0#4 ++ 0#8 := by
  rw [show (0xF000#16 : Word) = 0xF#4 ++ 0#4 ++ 0#8 from rfl, formXNN, BitVec.and_append, BitVec.and_append]
  simp [and_nibble]

theorem formX_mask (h : BitVec 4) (x : RegIdx) (nn : Byte) : formXNN h x nn &&& 0xF0FF#16 = h ++ 0#4 ++ nn := by
  rw [show (0xF0FF#16 : Word) = 0xF#4 ++ 0#4 ++ 0xFF#8 from rfl, formXNN, BitVec.and_append, BitVec.and_append]
  simp [and_nibble, and_byte]

theorem formXYN_mask (h : BitVec 4) (x y : RegIdx) (n : Fin 16) :
    formXYN h x y n &&& 0xF000#16 = h ++ 0#4 ++ 0#4 ++ 0#4 := by
  rw [show (0xF000#16 : Word) = 0xF#4 ++ 0#4 ++ 0#4 ++ 0#4 from rfl, formXYN, BitVec.and_append, BitVec.and_append,
    BitVec.and_append]
  simp [and_nibble]

theorem formXY_mask (h : BitVec 4) (x y : RegIdx) (n : Fin 16) :
    formXYN h x y n &&& 0xF00F#16 = h ++ 0#4 ++ 0#4 ++ BitVec.ofFin (w := 4) n := by
  rw [show (0xF00F#16 : Word) = 0xF#4 ++ 0#4 ++ 0#4 ++ 0xF#4 from rfl, formXYN, BitVec.and_append, BitVec.and_append,
    BitVec.and_append]
  simp [and_nibble]

/-! ### Each instruction -/

theorem cls : Statement (Instr.cls) := rfl
theorem ret : Statement (Instr.ret) := rfl
theorem sys (nnn : Addr12) : Statement (Instr.sys nnn) := formNNN_mask _ _
theorem jp (nnn : Addr12) : Statement (Instr.jp nnn) := formNNN_mask _ _
theorem call (nnn : Addr12) : Statement (Instr.call nnn) := formNNN_mask _ _
theorem seImm (x : RegIdx) (nn : Byte) : Statement (Instr.seImm x nn) := formXNN_mask _ _ _
theorem sneImm (x : RegIdx) (nn : Byte) : Statement (Instr.sneImm x nn) := formXNN_mask _ _ _
theorem seReg (x y : RegIdx) : Statement (Instr.seReg x y) := formXY_mask _ _ _ _
theorem ldImm (x : RegIdx) (nn : Byte) : Statement (Instr.ldImm x nn) := formXNN_mask _ _ _
theorem addImm (x : RegIdx) (nn : Byte) : Statement (Instr.addImm x nn) := formXNN_mask _ _ _
theorem ldReg (x y : RegIdx) : Statement (Instr.ldReg x y) := formXY_mask _ _ _ _
theorem or (x y : RegIdx) : Statement (Instr.or x y) := formXY_mask _ _ _ _
theorem and (x y : RegIdx) : Statement (Instr.and x y) := formXY_mask _ _ _ _
theorem xor (x y : RegIdx) : Statement (Instr.xor x y) := formXY_mask _ _ _ _
theorem addReg (x y : RegIdx) : Statement (Instr.addReg x y) := formXY_mask _ _ _ _
theorem sub (x y : RegIdx) : Statement (Instr.sub x y) := formXY_mask _ _ _ _
theorem shr (x y : RegIdx) : Statement (Instr.shr x y) := formXY_mask _ _ _ _
theorem subn (x y : RegIdx) : Statement (Instr.subn x y) := formXY_mask _ _ _ _
theorem shl (x y : RegIdx) : Statement (Instr.shl x y) := formXY_mask _ _ _ _
theorem sneReg (x y : RegIdx) : Statement (Instr.sneReg x y) := formXY_mask _ _ _ _
theorem ldI (nnn : Addr12) : Statement (Instr.ldI nnn) := formNNN_mask _ _
theorem jpV0 (nnn : Addr12) : Statement (Instr.jpV0 nnn) := formNNN_mask _ _
theorem rnd (x : RegIdx) (nn : Byte) : Statement (Instr.rnd x nn) := formXNN_mask _ _ _
theorem drw (x y : RegIdx) (n : Fin 16) : Statement (Instr.drw x y n) := formXYN_mask _ _ _ _
theorem skp (x : RegIdx) : Statement (Instr.skp x) := formX_mask _ _ _
theorem sknp (x : RegIdx) : Statement (Instr.sknp x) := formX_mask _ _ _
theorem ldVxDt (x : RegIdx) : Statement (Instr.ldVxDt x) := formX_mask _ _ _
theorem ldVxK (x : RegIdx) : Statement (Instr.ldVxK x) := formX_mask _ _ _
theorem ldDtVx (x : RegIdx) : Statement (Instr.ldDtVx x) := formX_mask _ _ _
theorem ldStVx (x : RegIdx) : Statement (Instr.ldStVx x) := formX_mask _ _ _
theorem addIVx (x : RegIdx) : Statement (Instr.addIVx x) := formX_mask _ _ _
theorem ldFVx (x : RegIdx) : Statement (Instr.ldFVx x) := formX_mask _ _ _
theorem ldBVx (x : RegIdx) : Statement (Instr.ldBVx x) := formX_mask _ _ _
theorem ldMiVx (x : RegIdx) : Statement (Instr.ldMiVx x) := formX_mask _ _ _
theorem ldVxMi (x : RegIdx) : Statement (Instr.ldVxMi x) := formX_mask _ _ _
theorem unknown (raw : Word) : Statement (Instr.unknown raw) := BitVec.and_zero

end Sys2Proof.Laws.TableRow
end

