-- ==== Sys2Proof/Machine/Assembly.lean ====
section
/-! DEFINITION. The assembler notation of an instruction (spec 30_encoding.md R90, R91; log 31). It is notation only: no meaning and no
claim rests on it. -/

namespace Sys2Proof

/-- One hexadecimal digit. -/
def hexDigit (d : Nat) : String :=
  (["0", "1", "2", "3", "4", "5", "6", "7", "8", "9", "A", "B", "C", "D", "E", "F"] : List String).getD d "?"

/-- `k` hexadecimal digits of a number, with the prefix 0x. -/
def hexText (k n : Nat) : String :=
  "0x" ++ String.join ((List.range k).map (fun j => hexDigit (n / 16 ^ (k - 1 - j) % 16)))

/-- A register: V0 to VF. -/
def regText (x : RegIdx) : String := "V" ++ hexDigit x.val

/-- Two registers. -/
def regsText (x y : RegIdx) : String := regText x ++ ", " ++ regText y

/-- A register and an immediate byte. -/
def immText (x : RegIdx) (nn : Byte) : String := regText x ++ ", " ++ hexText 2 nn.toNat

/-- The text of an instruction, from the table of R90. The optional operand of SHR and SHL is always written, so that Y is not lost. -/
def Instr.assembly : Instr → String
  | .cls => "CLS"
  | .ret => "RET"
  | .sys nnn => "SYS " ++ hexText 3 nnn.toNat
  | .jp nnn => "JP " ++ hexText 3 nnn.toNat
  | .call nnn => "CALL " ++ hexText 3 nnn.toNat
  | .seImm x nn => "SE " ++ immText x nn
  | .sneImm x nn => "SNE " ++ immText x nn
  | .seReg x y => "SE " ++ regsText x y
  | .ldImm x nn => "LD " ++ immText x nn
  | .addImm x nn => "ADD " ++ immText x nn
  | .ldReg x y => "LD " ++ regsText x y
  | .or x y => "OR " ++ regsText x y
  | .and x y => "AND " ++ regsText x y
  | .xor x y => "XOR " ++ regsText x y
  | .addReg x y => "ADD " ++ regsText x y
  | .sub x y => "SUB " ++ regsText x y
  | .shr x y => "SHR " ++ regsText x y
  | .subn x y => "SUBN " ++ regsText x y
  | .shl x y => "SHL " ++ regsText x y
  | .sneReg x y => "SNE " ++ regsText x y
  | .ldI nnn => "LD I, " ++ hexText 3 nnn.toNat
  | .jpV0 nnn => "JP V0, " ++ hexText 3 nnn.toNat
  | .rnd x nn => "RND " ++ immText x nn
  | .drw x y n => "DRW " ++ regsText x y ++ ", " ++ hexDigit n.val
  | .skp x => "SKP " ++ regText x
  | .sknp x => "SKNP " ++ regText x
  | .ldVxDt x => "LD " ++ regText x ++ ", DT"
  | .ldVxK x => "LD " ++ regText x ++ ", K"
  | .ldDtVx x => "LD DT, " ++ regText x
  | .ldStVx x => "LD ST, " ++ regText x
  | .addIVx x => "ADD I, " ++ regText x
  | .ldFVx x => "LD F, " ++ regText x
  | .ldBVx x => "LD B, " ++ regText x
  | .ldMiVx x => "LD [I], " ++ regText x
  | .ldVxMi x => "LD " ++ regText x ++ ", [I]"
  | .unknown raw => "DW " ++ hexText 4 raw.toNat

end Sys2Proof
end

