-- ==== Sys2Proof/Tests/Slice0.lean ====
section
/-! SUPPORT. The model's own tests. Expected values are those of spec 95_test_vectors.md (its section in each heading), 20_memory.md R60 and
30_encoding.md R74 to R79, worked out by hand where the spec gives no vector. After them, for every obligation with hypotheses, a concrete
state and operands that meet them. -/

namespace Sys2Proof.Tests

open Sys2Proof Sys2Proof.Machine

/-! ### Helpers -/

/-- The reset state, changed by `f`, with the word `w` where the next fetch finds it. -/
def start (w : Nat) (f : State → State) : State := (f State.reset).withFetchWord 16 w

/-- One cycle from the reset state changed by `f`, with the word `w` at PC, answers a next state of which `p` holds. -/
def runs (w : Nat) (f : State → State) (p : State → Bool) : Bool :=
  match step (start w f) with
  | .next t => p t
  | _ => false

/-- The key matrix in which exactly the listed keys are held. -/
def held (ks : List Nat) : KeyMatrix := Vector.ofFn (fun k => decide (k.val ∈ ks))

/-- Every listed pixel, as (column, row), is lit. -/
def litAt (s : State) (ps : List (Fin 64 × Fin 32)) : Bool := ps.all (fun p => s.pixel p.2 p.1)

/-- No listed pixel, as (column, row), is lit. -/
def darkAt (s : State) (ps : List (Fin 64 × Fin 32)) : Bool := ps.all (fun p => !s.pixel p.2 p.1)

/-- The fault latch as three numbers. -/
def latch (s : State) : Nat × Nat × Nat := (s.fault.code.toBits.toNat, s.fault.pc.toNat, s.fault.addr.toNat)

/-! ### WellFormed: every check refuses an ill-formed term -/

theorem test_wellFormed_refuses_sys_00E0 : (Instr.sys 0x0E0#12).wellFormed = false := by decide
theorem test_wellFormed_refuses_sys_00EE : (Instr.sys 0x0EE#12).wellFormed = false := by decide
theorem test_wellFormed_refuses_a_recognized_unknown :
    (Instr.unknown 0x6005#16).wellFormed = false ∧ (Instr.unknown 0x8AB7#16).wellFormed = false ∧
    (Instr.unknown 0xE19E#16).wellFormed = false ∧ (Instr.unknown 0xF265#16).wellFormed = false := by decide
theorem test_wellFormed_accepts :
    (Instr.sys 0xFFF#12).wellFormed = true ∧ (Instr.unknown 0xFFFF#16).wellFormed = true ∧
    (Instr.drw 15 15 15).wellFormed = true := by decide

/-! ### Decoding (95 2.1): words written out from the encodings -/

theorem test_decode_family_0 :
    decode 0x00E0#16 = .cls ∧ decode 0x00EE#16 = .ret ∧ decode 0x0000#16 = .sys 0x000#12 ∧
    decode 0x00E1#16 = .sys 0x0E1#12 ∧ decode 0x00EF#16 = .sys 0x0EF#12 ∧ decode 0x0FFF#16 = .sys 0xFFF#12 := by decide
theorem test_decode_families_1_to_7 :
    decode 0x1ABC#16 = .jp 0xABC#12 ∧ decode 0x2ABC#16 = .call 0xABC#12 ∧ decode 0x3A42#16 = .seImm 0xA 0x42#8 ∧
    decode 0x4A42#16 = .sneImm 0xA 0x42#8 ∧ decode 0x5AB0#16 = .seReg 0xA 0xB ∧ decode 0x6A42#16 = .ldImm 0xA 0x42#8 ∧
    decode 0x7A42#16 = .addImm 0xA 0x42#8 := by decide
theorem test_decode_family_8 :
    decode 0x8AB0#16 = .ldReg 0xA 0xB ∧ decode 0x8AB1#16 = .or 0xA 0xB ∧ decode 0x8AB2#16 = .and 0xA 0xB ∧
    decode 0x8AB3#16 = .xor 0xA 0xB ∧ decode 0x8AB4#16 = .addReg 0xA 0xB ∧ decode 0x8AB5#16 = .sub 0xA 0xB ∧
    decode 0x8AB6#16 = .shr 0xA 0xB ∧ decode 0x8AB7#16 = .subn 0xA 0xB ∧ decode 0x8ABE#16 = .shl 0xA 0xB ∧
    decode 0x8AB8#16 = .unknown 0x8AB8#16 ∧ decode 0x8ABD#16 = .unknown 0x8ABD#16 ∧
    decode 0x8ABF#16 = .unknown 0x8ABF#16 := by decide
theorem test_decode_families_9_to_D :
    decode 0x9AB0#16 = .sneReg 0xA 0xB ∧ decode 0xAABC#16 = .ldI 0xABC#12 ∧ decode 0xBABC#16 = .jpV0 0xABC#12 ∧
    decode 0xCA42#16 = .rnd 0xA 0x42#8 ∧ decode 0xDAB5#16 = .drw 0xA 0xB 0x5 ∧ decode 0xDAB0#16 = .drw 0xA 0xB 0x0 := by decide
theorem test_decode_family_E :
    decode 0xEA9E#16 = .skp 0xA ∧ decode 0xEAA1#16 = .sknp 0xA ∧ decode 0xEA9F#16 = .unknown 0xEA9F#16 ∧
    decode 0xE000#16 = .unknown 0xE000#16 := by decide
theorem test_decode_family_F :
    decode 0xFA07#16 = .ldVxDt 0xA ∧ decode 0xFA0A#16 = .ldVxK 0xA ∧ decode 0xFA15#16 = .ldDtVx 0xA ∧
    decode 0xFA18#16 = .ldStVx 0xA ∧ decode 0xFA1E#16 = .addIVx 0xA ∧ decode 0xFA29#16 = .ldFVx 0xA ∧
    decode 0xFA33#16 = .ldBVx 0xA ∧ decode 0xFA55#16 = .ldMiVx 0xA ∧ decode 0xFA65#16 = .ldVxMi 0xA := by decide
theorem test_decode_family_F_unknown :
    decode 0xFA00#16 = .unknown 0xFA00#16 ∧ decode 0xFA08#16 = .unknown 0xFA08#16 ∧ decode 0xFA56#16 = .unknown 0xFA56#16 ∧
    decode 0xFFFF#16 = .unknown 0xFFFF#16 := by decide
theorem test_decode_low_nibble_parameter :
    decodeWith .strict 0x5AB1#16 = .unknown 0x5AB1#16 ∧ decodeWith .ignore 0x5AB1#16 = .seReg 0xA 0xB ∧
    decodeWith .strict 0x9ABF#16 = .unknown 0x9ABF#16 ∧ decodeWith .ignore 0x9ABF#16 = .sneReg 0xA 0xB := by decide
theorem test_decode_truncated : decodeBytes [] = .error .truncated ∧ decodeBytes [0x60] = .error .truncated := by
  exact ⟨rfl, rfl⟩
theorem test_decode_is_big_endian : decodeBytes [0x60, 0x05, 0x70] = .ok (.ldImm 0 0x05#8, [0x70]) := by rfl
theorem test_decodeTableWord : decodeTableWord 16 0xDAB5 = some (.drw 0xA 0xB 0x5) := by decide
theorem test_encode_writes_the_high_byte_first :
    encodeBytes (.drw 0xA 0xB 0x5) = [0xDA, 0xB5] ∧ encodeBytes (.ldI 0x2F0#12) = [0xA2, 0xF0] ∧
    encodeBytes (.ldMiVx 0x3) = [0xF3, 0x55] := by decide

/-! ### Assembler notation (R90, and the listings of 95 section 3) -/

theorem test_assembly : (decode 0x6A9D#16).assembly = "LD VA, 0x9D" ∧ (decode 0x2210#16).assembly = "CALL 0x210" ∧
    (decode 0xD125#16).assembly = "DRW V1, V2, 5" ∧ (decode 0xF265#16).assembly = "LD V2, [I]" ∧
    (decode 0xFFFF#16).assembly = "DW 0xFFFF" := by decide

/-! ### Reset (R38, R60) -/

theorem test_reset_font_glyphs_0_7_F :
    (List.range 5).map State.reset.byteAt = [0xF0, 0x90, 0x90, 0x90, 0xF0] ∧
    (List.range 5).map (fun k => State.reset.byteAt (0x23 + k)) = [0xF0, 0x10, 0x20, 0x40, 0x40] ∧
    (List.range 5).map (fun k => State.reset.byteAt (0x4B + k)) = [0xF0, 0x80, 0xF0, 0x80, 0x80] ∧
    State.reset.byteAt 0x50 = 0 ∧ Params.fontBytes.length = 80 := by decide

/-! ### Control flow (95 2.2) -/

theorem test_ret : runs 0x00EE (fun s => { s with sp := 1, stack := s.stack.set 0 0x206#16 })
    (fun t => t.sp == 0 && t.pc == 0x206#16 && t.stack[0] == 0x206#16) = true := by decide
theorem test_ret_underflow : runs 0x00EE (fun s => { s with dt := 5, st := 5 })
    (fun t => latch t == (4, 0x200, 0) && t.pc == 0x200#16 && t.dt == 5 && t.st == 5) = true := by decide
theorem test_jp : runs 0x1ABC id (fun t => t.pc == 0xABC#16) = true := by decide
theorem test_jp_odd : runs 0x1201 id (fun t => t.pc == 0x201#16) = true := by decide
theorem test_call_last_slot : runs 0x2300 (fun s => { s with sp := 31 })
    (fun t => t.stack[31] == 0x202#16 && t.sp == 32 && t.pc == 0x300#16) = true := by decide
theorem test_call_overflow : runs 0x2300 (fun s => { s with sp := 32 })
    (fun t => latch t == (5, 0x200, 0) && t.sp == 32 && t.pc == 0x200#16) = true := by decide
theorem test_seImm : runs 0x3310 (·.setReg 3 0x10) (fun t => t.pc == 0x204#16) = true ∧
    runs 0x3311 (·.setReg 3 0x10) (fun t => t.pc == 0x202#16) = true := by decide
theorem test_sneImm : runs 0x4310 (·.setReg 3 0x10) (fun t => t.pc == 0x202#16) = true ∧
    runs 0x4311 (·.setReg 3 0x10) (fun t => t.pc == 0x204#16) = true := by decide
theorem test_seReg : runs 0x5120 (fun s => (s.setReg 1 7).setReg 2 7) (fun t => t.pc == 0x204#16) = true ∧
    runs 0x5120 (fun s => (s.setReg 1 7).setReg 2 8) (fun t => t.pc == 0x202#16) = true := by decide
theorem test_sneReg : runs 0x9120 (fun s => (s.setReg 1 7).setReg 2 8) (fun t => t.pc == 0x204#16) = true ∧
    runs 0x9110 (·.setReg 1 7) (fun t => t.pc == 0x202#16) = true := by decide
theorem test_jpV0_largest : runs 0xBFFF (·.setReg 0 0xFF) (fun t => t.pc == 0x10FE#16) = true := by decide
theorem test_jpV0_uses_v0_only : runs 0xB300 (·.setReg 5 4) (fun t => t.pc == 0x300#16) = true := by decide

/-! ### Registers and ALU (95 2.3, E1 to E3) -/

theorem test_ldImm : runs 0x6A42 id (fun t => t.reg 0xA == 0x42) = true := by decide
theorem test_addImm_no_flag : runs 0x7101 (·.setReg 1 0xFF) (fun t => t.reg 1 == 0 && t.reg 15 == 0) = true := by decide
theorem test_addImm_vf : runs 0x7FFF (·.setReg 15 1) (fun t => t.reg 15 == 0) = true := by decide
theorem test_ldReg : runs 0x8120 (·.setReg 2 0x3C) (fun t => t.reg 1 == 0x3C && t.reg 2 == 0x3C) = true := by decide
theorem test_or : runs 0x8121 (fun s => ((s.setReg 1 0x0F).setReg 2 0xF0).setReg 15 5)
    (fun t => t.reg 1 == 0xFF && t.reg 15 == 5) = true := by decide
theorem test_and : runs 0x8122 (fun s => ((s.setReg 1 0x3C).setReg 2 0x0F).setReg 15 5)
    (fun t => t.reg 1 == 0x0C && t.reg 15 == 5) = true := by decide
theorem test_xor : runs 0x8123 (fun s => ((s.setReg 1 0x3C).setReg 2 0x0F).setReg 15 5)
    (fun t => t.reg 1 == 0x33 && t.reg 15 == 5) = true := by decide
theorem test_addReg : runs 0x8124 (fun s => (s.setReg 1 0xC8).setReg 2 0x64) (fun t => t.reg 1 == 0x2C && t.reg 15 == 1) = true ∧
    runs 0x8124 (fun s => (s.setReg 1 0x7F).setReg 2 0x80) (fun t => t.reg 1 == 0xFF && t.reg 15 == 0) = true := by decide
theorem test_addReg_vf : runs 0x81F4 (fun s => (s.setReg 1 1).setReg 15 0xFF) (fun t => t.reg 1 == 0 && t.reg 15 == 1) = true ∧
    runs 0x8F14 (fun s => (s.setReg 1 1).setReg 15 0xFF) (fun t => t.reg 15 == 1) = true := by decide
theorem test_sub : runs 0x8125 (fun s => (s.setReg 1 5).setReg 2 7) (fun t => t.reg 1 == 0xFE && t.reg 15 == 0) = true ∧
    runs 0x8125 (fun s => (s.setReg 1 5).setReg 2 5) (fun t => t.reg 1 == 0 && t.reg 15 == 1) = true := by decide
theorem test_subn : runs 0x8127 (fun s => (s.setReg 1 5).setReg 2 7) (fun t => t.reg 1 == 2 && t.reg 15 == 1) = true ∧
    runs 0x8127 (fun s => s.setReg 1 1) (fun t => t.reg 1 == 0xFF && t.reg 15 == 0) = true := by decide
theorem test_shr : runs 0x8126 (fun s => (s.setReg 1 4).setReg 2 0xFF) (fun t => t.reg 1 == 2 && t.reg 15 == 0) = true ∧
    runs 0x8106 (·.setReg 1 5) (fun t => t.reg 1 == 2 && t.reg 15 == 1) = true := by decide
theorem test_shl : runs 0x810E (·.setReg 1 0x81) (fun t => t.reg 1 == 2 && t.reg 15 == 1) = true ∧
    runs 0x8F0E (·.setReg 15 0x81) (fun t => t.reg 15 == 1) = true := by decide
theorem test_rnd_mask_0 : ∃ t, step (start 0xC100 (·.setReg 1 7)) = .next t ∧ t.reg 1 = 0 :=
  ⟨_, rfl, BitVec.and_zero⟩
theorem test_rnd_mask_FF : ∃ t, step (start 0xC1FF id) = .next t ∧ t.reg 1 = Config.rndDraw 0 ∧ t.draws = 1 :=
  ⟨_, rfl, BitVec.and_allOnes, rfl⟩

/-! ### Index register and memory (95 2.4, E6, E7) -/

theorem test_ldI : runs 0xA2F0 (·.setI 0x1234) (fun t => t.i == 0x2F0#16) = true := by decide
theorem test_addIVx : runs 0xF21E (fun s => (s.setI 0xFFFF).setReg 2 1) (fun t => t.i == 0) = true ∧
    runs 0xF21E (fun s => (s.setI 0xFFF).setReg 2 1) (fun t => t.i == 0x1000#16 && t.reg 15 == 0) = true := by decide
theorem test_ldFVx : runs 0xF429 (·.setReg 4 0x0B) (fun t => t.i == 0x37#16) = true ∧
    runs 0xF429 (·.setReg 4 0x1A) (fun t => t.i == 0x82#16) = true := by decide
theorem test_ldBVx : runs 0xF333 (fun s => (s.setI 0xFFD).setReg 3 0x9D)
    (fun t => [0xFFD, 0xFFE, 0xFFF].map t.byteAt == [1, 5, 7] && t.i == 0xFFD#16) = true := by decide
theorem test_ldBVx_fault : runs 0xF333 (fun s => (s.setI 0xFFE).setReg 3 0x9D)
    (fun t => latch t == (3, 0x200, 0x1000) && t.byteAt 0xFFE == 0 && t.pc == 0x200#16) = true := by decide
theorem test_ldMiVx : runs 0xF255 (fun s => (((s.setI 0x300).setReg 0 1).setReg 1 2).setReg 2 3)
    (fun t => [0x300, 0x301, 0x302].map t.byteAt == [1, 2, 0] && t.i == 0x300#16) = true := by decide
theorem test_ldMiVx_edges : runs 0xF055 (·.setI 0xFFFF) (fun t => latch t == (0, 0, 0)) = true ∧
    runs 0xF255 (fun s => (s.setI 0xFFF).setReg 0 9) (fun t => latch t == (3, 0x200, 0x1000) && t.byteAt 0xFFF == 0) = true := by decide
theorem test_ldVxMi : runs 0xF165 (fun s => (((s.setI 0x300).setByte 0x300 0x0A).setByte 0x301 0x0B).setByte 0x302 0x0C)
    (fun t => t.reg 0 == 0x0A && t.reg 1 == 0x0B && t.reg 2 == 0) = true := by decide
theorem test_ldVxMi_fault : runs 0xF065 (·.setI 0x1000) (fun t => latch t == (2, 0x200, 0x1000) && t.reg 0 == 0) = true ∧
    runs 0xFF65 (·.setI 0xFFFF) (fun t => latch t == (2, 0x200, 0xFFFF)) = true := by decide

/-! ### Display (95 2.5, E4, E5) -/

theorem test_cls : runs 0x00E0 (fun s => { s with disp := Display.setPixel s.disp 3 5 true }.setReg 15 7)
    (fun t => darkAt t [(5, 3)] && t.reg 15 == 7 && !t.drawFlag) = true := by decide
theorem test_drw_wraps : runs 0xD011 (fun s => ((s.setI 0x300).setByte 0x300 0xFF).setReg 0 63)
    (fun t => litAt t [(63, 0), (0, 0), (6, 0)] && darkAt t [(62, 0), (7, 0), (63, 1)] && t.reg 15 == 0 && t.drawFlag) = true := by decide
theorem test_drw_collides :
    runs 0xD011 (fun s => { s with disp := Display.setPixel s.disp 0 1 true, i := 0x300 }.setByte 0x300 0xC0)
      (fun t => litAt t [(0, 0)] && darkAt t [(1, 0)] && t.reg 15 == 1) = true := by decide

/-! ### Keys and timers (95 2.6, E8) -/

theorem test_skp : runs 0xE59E (fun s => { s with keyInputs := [held [0xA]] }.setReg 5 0xA) (fun t => t.pc == 0x204#16) = true ∧
    runs 0xE59E (fun s => { s with keyInputs := [held (List.range 16)] }.setReg 5 0x10) (fun t => t.pc == 0x202#16) = true := by decide
theorem test_sknp : runs 0xE5A1 (fun s => { s with keyInputs := [held [0xA]] }.setReg 5 0xA) (fun t => t.pc == 0x202#16) = true ∧
    runs 0xE5A1 (fun s => { s with keyInputs := [held (List.range 16)] }.setReg 5 0x20) (fun t => t.pc == 0x204#16) = true := by decide
theorem test_ldVxDt : runs 0xF307 (·.setDt 0x3C) (fun t => t.reg 3 == 0x3C && t.dt == 0x3B) = true := by decide
theorem test_ldVxK_waits : runs 0xF20A (fun s => { s with keyInputs := [held [3]], dt := 2, st := 2 })
    (fun t => t.pc == 0x200#16 && t.reg 2 == 0 && t.keysPrev == held [3] && t.dt == 1 && t.st == 1 && !t.beep) = true := by decide
theorem test_ldVxK_takes : runs 0xF20A (fun s => { s with keysPrev := held [3], keyInputs := [held []] })
    (fun t => t.reg 2 == 3 && t.pc == 0x202#16 && t.keysPrev == held []) = true := by decide
theorem test_ldDtVx : runs 0xF115 (·.setReg 1 5) (fun t => t.dt == 4) = true ∧
    runs 0xF115 (·.setDt 9) (fun t => t.dt == 0) = true := by decide
theorem test_ldStVx : runs 0xF118 (·.setReg 1 1) (fun t => t.st == 0 && t.beep) = true ∧
    runs 0xF118 (·.setReg 1 2) (fun t => t.st == 1 && !t.beep) = true := by decide

/-! ### No-ops and the cycle (95 2.7, 2.8) -/

theorem test_sys : runs 0x0123 (·.setDt 2) (fun t => t.pc == 0x202#16 && t.dt == 1) = true := by decide
theorem test_unknown : runs 0xFFFF id (fun t => t.pc == 0x202#16 && latch t == (0, 0, 0)) = true := by decide
theorem test_beep_of_a_running_timer : runs 0x0000 (·.setSt 1) (fun t => t.st == 0 && t.beep) = true ∧
    runs 0x0000 (·.setSt 3) (fun t => t.st == 2 && !t.beep) = true := by decide
theorem test_fetch_fault : runs 0x0000 (·.setPc 0xFFF) (fun t => latch t == (1, 0xFFF, 0x1000) && t.pc == 0xFFF#16) = true := by decide
theorem test_faulting_cycle_latches_no_keys : runs 0x00EE (fun s => { s with keyInputs := [held [1]] })
    (fun t => t.keysPrev == held [] && t.keys == held [1]) = true := by decide

/-! ### Witnesses: states and operands that meet the hypotheses of each obligation, clause by clause, at the ends of their ranges -/

/-- A state with the given I. -/
def atI (i : Nat) : State := State.reset.setI (BitVec.ofNat 16 i)

/-- A state with the given count of stack entries. -/
def atSp (n : Fin 33) : State := { State.reset with sp := n }

/-- The state after one cycle of the word `w`. -/
def after (w : Nat) (f : State → State) : State :=
  match step (start w f) with
  | .next t => t
  | _ => start w f

theorem test_witness_EveryFormatDecodesItsOperands : (0x0E1#12 : Addr12) ≠ 0x0E0#12 ∧ (0x0E1#12 : Addr12) ≠ 0x0EE#12 := by decide
theorem test_witness_EncodedInstructionDecodesBack :
    (Instr.sys 0x0EF#12).wellFormed = true ∧ (Instr.unknown 0xF066#16).wellFormed = true ∧ (Instr.drw 0 15 0).wellFormed = true := by
  decide
theorem test_witness_UnrecognizedWordsAreExactlyTheListed :
    decodeWith .ignore 0x8008#16 = .unknown 0x8008#16 ∧ decodeWith .ignore 0x800F#16 = .unknown 0x800F#16 ∧
    decodeWith .ignore 0xE09F#16 = .unknown 0xE09F#16 ∧ decodeWith .ignore 0xF006#16 = .unknown 0xF006#16 ∧
    decodeWith .strict 0x5001#16 = .unknown 0x5001#16 ∧ decodeWith .strict 0x900F#16 = .unknown 0x900F#16 := by decide
theorem test_witness_LowNibbleParameterDecidesFamilies5And9 :
    (fieldN 0x5001#16 ≠ 0 ∧ family 0x5001#16 = 5) ∧ (fieldN 0x9FFF#16 ≠ 0 ∧ family 0x9FFF#16 = 9) := by decide
theorem test_witness_JumpSetsPc :
    ((0x201#12 : Addr12).toNat ≤ 0xFFE ∧ (State.reset.setPc 0x201#16).running ∧
      (State.reset.setPc 0x201#16).pc = addrOf 0x201#12) ∧
    (0xFFE < (0xFFF#12 : Addr12).toNat ∧ (State.reset.setPc 0xFFF#16).running ∧
      (State.reset.setPc 0xFFF#16).pc = addrOf 0xFFF#12) ∧
    ((start 0x1200 id).running ∧ (start 0x1200 id).pc.toNat ≤ 0xFFE ∧
      (0x200#12 : Addr12).toNat = (start 0x1200 id).pc.toNat ∧
      decode ((start 0x1200 id).wordAt (start 0x1200 id).pc.toNat) = .jp 0x200#12) := by
  exact ⟨⟨by decide, rfl, rfl⟩, ⟨by decide, rfl, rfl⟩, rfl, by decide, by decide, by decide⟩
theorem test_witness_CallPushesReturnAddress : (atSp 0).sp.val < 32 ∧ (atSp 31).sp.val < 32 := by decide
theorem test_witness_ReturnPopsPc : 0 < (atSp 1).sp.val ∧ 0 < (atSp 32).sp.val := by decide
theorem test_witness_CallThenReturnComesBack : (atSp 31).sp.val < 32 ∧ ∃ t u : State,
    exec (.call 0x300#12) (atSp 31) = .next t ∧ u.sp = t.sp ∧ u.stack = t.stack := ⟨by decide, _, _, rfl, rfl, rfl⟩
theorem test_witness_SkipsAdvanceByTwo :
    State.reset.reg 1 = 0 ∧ State.reset.reg 1 ≠ 1 ∧ State.reset.reg 1 = State.reset.reg 2 ∧
    (State.reset.setReg 2 1).reg 1 ≠ (State.reset.setReg 2 1).reg 2 ∧
    KeyHeld (hostWriteKeys (held [15]) State.reset) 15 ∧ ¬ KeyHeld (hostWriteKeys (held [15]) State.reset) 16 := by
  refine ⟨by decide, by decide, by decide, by decide, ⟨15, by decide, by decide⟩, ?_⟩
  rintro ⟨k, hk, -⟩
  exact absurd k.isLt (by rw [← hk]; decide)
theorem test_witness_JumpPlusV0 : 0xFFE < (0xF00#12 : Addr12).toNat + ((State.reset.setReg 0 0xFF).reg 0).toNat ∧
    (State.reset.setPc 0xFFF#16).running ∧
    ∃ t, exec (.jpV0 0xF00#12) (State.reset.setReg 0 0xFF) = .next t ∧ (State.reset.setPc 0xFFF#16).pc = t.pc :=
  ⟨by decide, rfl, _, rfl, by decide⟩
theorem test_witness_StackFaultsAreRecorded : (atSp 0).sp.val = 0 ∧ (atSp 32).sp.val = 32 := by decide
theorem test_witness_flag_statements : (14 : RegIdx) ≠ 15 ∧ (0 : RegIdx) ≠ 15 := by decide
theorem test_witness_DecimalDigitsAreStored : AccessInRange (atI 0xFFD) 3 ∧ AccessInRange (atI 0) 3 :=
  ⟨.inr (by decide), .inr (by decide)⟩
theorem test_witness_RegistersAreStoredExclusive :
    AccessInRange (atI 0xFFFF) (0 : RegIdx).val ∧ AccessInRange (atI 0xFFF) (1 : RegIdx).val ∧
    AccessInRange (atI 0xFF1) (15 : RegIdx).val ∧ (14 : RegIdx).val < (15 : RegIdx).val :=
  ⟨.inl rfl, .inr (by decide), .inr (by decide), by decide⟩
theorem test_witness_RegistersAreLoadedInclusive :
    AccessInRange (atI 0xFFF) ((0 : RegIdx).val + 1) ∧ AccessInRange (atI 0xFF0) ((15 : RegIdx).val + 1) :=
  ⟨.inr (by decide), .inr (by decide)⟩
theorem test_witness_StoreThenRestoreIsAsymmetric : AccessInRange (atI 0xFFF) ((0 : RegIdx).val + 1) ∧
    AccessInRange (atI 0xFF0) ((15 : RegIdx).val + 1) ∧ ∃ t t' : State, exec (.ldMiVx 15) (atI 0xFF0) = .next t ∧
      t'.i = (atI 0xFF0).i ∧ (∀ a, t'.byteAt a = t.byteAt a) :=
  ⟨.inr (by decide), .inr (by decide), _, _, rfl, rfl, fun _ => rfl⟩
theorem test_witness_OutOfRangeAccessIsRecorded :
    ¬ AccessInRange (atI 0xFFE) 3 ∧ ¬ AccessInRange (atI 0xFFF) (2 : RegIdx).val ∧
    ¬ AccessInRange (atI 0x1000) ((0 : RegIdx).val + 1) ∧ ¬ AccessInRange (atI 0xFFFF) (1 : Fin 16).val := by
  refine ⟨?_, ?_, ?_, ?_⟩ <;> (rintro (h | h) <;> revert h <;> decide)
/-- The last two bytes of memory stored (FX55) and fetched from the byte before them, and the last digit (FX33) fetched with the byte after. -/
theorem test_witness_FetchSeesStoredBytes :
    (AccessInRange (atI 0xFFE) (2 : RegIdx).val ∧ ∃ t u : State, exec (.ldMiVx 2) (atI 0xFFE) = .next t ∧ u.running ∧
      u.pc.toNat ≤ 0xFFE ∧ u.pc.toNat = (atI 0xFFE).i.toNat - 1 ∧ ∀ a, u.byteAt a = t.byteAt a) ∧
    (AccessInRange (atI 0xFFC) 3 ∧ ∃ t u : State, exec (.ldBVx 0) (atI 0xFFC) = .next t ∧ u.running ∧
      u.pc.toNat ≤ 0xFFE ∧ u.pc.toNat = (atI 0xFFC).i.toNat + 2 ∧ ∀ a, u.byteAt a = t.byteAt a) :=
  ⟨⟨.inr (by decide), _, ((atI 0xFFE).storeBytes 2 (fun k => (atI 0xFFE).reg (Fin.ofNat 16 k))).setPc 0xFFD, rfl, rfl, by decide,
      by decide, fun _ => rfl⟩,
    ⟨.inr (by decide), _, ((atI 0xFFC).storeBytes 3 (bcdDigit ((atI 0xFFC).reg 0))).setPc 0xFFE, rfl, rfl, by decide,
      by decide, fun _ => rfl⟩⟩
theorem test_word_of_an_older_and_a_stored_byte :
    wordAfterStore ((atI 0x51).setReg 0 0x6A) (firstRegs ((atI 0x51).setReg 0 0x6A) 1) 0x50 = 0x006A#16 ∧
    wordAfterStore ((atI 0x300).setReg 0 157) (decimalDigits 157) 0x301 = 0x0507#16 ∧
    wordAfterStore (atI 0x300) (decimalDigits 157) 0x302 = 0x0700#16 := by decide
theorem test_witness_DrawInvertsExactlyTheCoveredPixels :
    AccessInRange (atI 0xFFFF) (0 : Fin 16).val ∧ AccessInRange (atI 0xFF1) (15 : Fin 16).val ∧
    spriteCovers (fun _ => 0x80) 1 0 0 0 0 = true ∧ spriteCovers (fun _ => 0x01) 2 63 31 0 6 = true ∧
    spriteCovers (fun _ => 0x80) 1 0 0 0 1 = false := ⟨.inl rfl, .inr (by decide), by decide, by decide, by decide⟩
theorem test_witness_CollisionAndDrawingTwice : AccessInRange State.reset (5 : Fin 16).val ∧ ∃ t : State,
    exec (.drw 0 1 5) State.reset = .next t ∧ t.reg 0 = State.reset.reg 0 ∧ t.reg 1 = State.reset.reg 1 :=
  ⟨.inr (by decide), _, rfl, rfl, rfl⟩
theorem test_witness_DrawFlagIsSetAndNeverCleared : AccessInRange (atI 0xFFFF) (0 : Fin 16).val ∧ ∃ s t : State,
    step s = .next t ∧ s.drawFlag = true := ⟨.inl rfl, start 0x00E0 (fun s => { s with drawFlag := true }), _, rfl, rfl⟩
theorem test_witness_KeyWaitTakesAReleasedKeyOrRewinds :
    KeyReleased { State.reset with keysPrev := held [15] } 15 ∧ ∀ k, ¬ KeyReleased State.reset k :=
  ⟨⟨by decide, by decide⟩, fun k h => absurd h.1 (by clear h; revert k; decide)⟩
theorem test_witness_StepRunsTheDecodedInstruction : ∃ s : State, s.running ∧ s.pc.toNat ≤ 0xFFE ∧ s.pc.toNat = 0xFFE ∧
    decodeBytes [s.byteAt s.pc.toNat, s.byteAt (s.pc.toNat + 1)] = .ok (.ldImm 0 0x05#8, []) :=
  ⟨start 0x6005 (·.setPc 0xFFE), rfl, by decide, by decide, rfl⟩
theorem test_witness_SamplesKeys : State.reset.keyInputs = [] ∧
    (hostSupplyKeys (held [3]) State.reset).keyInputs = held [3] :: [] := ⟨rfl, rfl⟩
theorem test_witness_FetchOutOfRangeIsRecorded : (State.reset.setPc 0xFFF).running ∧ 0xFFE < (State.reset.setPc 0xFFF).pc.toNat ∧
    (State.reset.setPc 0x10FE).running ∧ 0xFFE < (State.reset.setPc 0x10FE).pc.toNat := ⟨rfl, by decide, rfl, by decide⟩
theorem test_witness_StoppedCoreTakesNoCycle : (after 0x00EE id).fault.code ≠ .none := by decide
theorem test_witness_FaultingCycleWritesOnlyTheLatch :
    step (start 0x00EE id) = .next (after 0x00EE id) ∧ (after 0x00EE id).fault.code ≠ .none := ⟨rfl, by decide⟩
theorem test_witness_timer_ticks : (step (start 0xF115 id) = .next (after 0xF115 id) ∧ (after 0xF115 id).running ∧
      Instr.ldDtVx 1 = decode ((start 0xF115 id).wordAt 0x200)) ∧
    (step (start 0xF307 id) = .next (after 0xF307 id) ∧ (after 0xF307 id).running ∧
      Instr.ldVxDt 3 = decode ((start 0xF307 id).wordAt 0x200)) ∧
    (step (start 0xF118 id) = .next (after 0xF118 id) ∧ (after 0xF118 id).running ∧
      Instr.ldStVx 1 = decode ((start 0xF118 id).wordAt 0x200)) :=
  ⟨⟨rfl, rfl, by decide⟩, ⟨rfl, rfl, by decide⟩, ⟨rfl, rfl, by decide⟩⟩
theorem test_witness_KeysAreLatchedByCompletedCycles :
    (step (start 0x0000 id) = .next (after 0x0000 id) ∧ (after 0x0000 id).running) ∧
    (step (start 0x00EE id) = .next (after 0x00EE id) ∧ ¬ (after 0x00EE id).running) :=
  ⟨⟨rfl, rfl⟩, rfl, show (after 0x00EE id).fault.code ≠ .none by decide⟩
theorem test_witness_CoreNeverWritesKeys : ∃ s t u v : State, step s = .next t ∧ s.keyInputs = [] ∧ step u = .next v ∧
    u.keyInputs = held [3] :: [] :=
  ⟨start 0x0000 id, _, start 0x0000 (fun s => { s with keyInputs := [held [3]] }), _, rfl, rfl, rfl, rfl⟩
theorem test_witness_KeyWaitRepeatsUntilARelease : ((start 0xF20A id).running ∧ (start 0xF20A id).pc.toNat ≤ 0xFFE ∧
      decode ((start 0xF20A id).wordAt (start 0xF20A id).pc.toNat) = .ldVxK 2 ∧
      ∀ k, ¬ KeyReleased (start 0xF20A id).sampleKeys k) ∧
    (∃ s : State, s.running ∧ s.pc.toNat ≤ 0xFFE ∧ decode (s.wordAt s.pc.toNat) = .ldVxK 2 ∧
      KeyReleased s.sampleKeys 7 ∧ ∀ k', KeyReleased s.sampleKeys k' → k' = 7) := by
  refine ⟨⟨rfl, by decide, by decide, fun k h => absurd h.1 (by clear h; revert k; decide)⟩,
    start 0xF20A (fun s => { s with keysPrev := held [7] }), rfl, by decide, by decide, ⟨by decide, by decide⟩, ?_⟩
  intro k' h
  have h1 := h.1
  clear h
  revert k'
  decide
theorem test_witness_EveryStepKeepsTheInvariant : Invariant (start 0xBFFF (·.setReg 0 0xFF)) ∧
    step (start 0xBFFF (·.setReg 0 0xFF)) = .next (after 0xBFFF (·.setReg 0 0xFF)) :=
  ⟨⟨by decide, by decide, by decide, trivial⟩, rfl⟩
theorem test_witness_EveryReachableStateMeetsTheInvariant : ∃ s t : State,
    hostLoadImage [0x12, 0x00] State.reset = .next s ∧ Reaches s t ∧ t ≠ s :=
  ⟨start 0x1200 id, hostWriteKeys (held [1]) (after 0x1200 id), rfl, .writeKeys _ (.cycle .refl rfl), by decide⟩
theorem test_witness_OnlyDestinationsAndTheFlagChange : ∃ s t : State, exec (.ldImm 3 0x05#8) s = .next t ∧
    (15 : RegIdx) ∉ destRegs (.ldImm 3 0x05#8) ∧ writesFlag (.ldImm 3 0x05#8) = false ∧
    (14 : RegIdx) ∉ destRegs (.addReg 15 3) := ⟨State.reset, _, rfl, by decide, by decide, by decide⟩
/-- The hypotheses of OnlyClearAndDrawChangeTheDisplay, OnlyThreeInstructionsChangeI, OnlyCallAndReturnTouchTheStack,
OnlyTheKeyWaitObservesKeysPrev and NoInstructionReadsSoundTimerOrDrawFlag, met together. -/
theorem test_witness_what_instructions_leave : ∃ s t : State, exec (.ldBVx 3) s = .next t ∧ Instr.ldBVx 3 ≠ .cls ∧
    (∀ x y n, Instr.ldBVx 3 ≠ .drw x y n) ∧ (∀ nnn, Instr.ldBVx 3 ≠ .ldI nnn) ∧ (∀ x, Instr.ldBVx 3 ≠ .addIVx x) ∧
    (∀ x, Instr.ldBVx 3 ≠ .ldFVx x) ∧ (∀ nnn, Instr.ldBVx 3 ≠ .call nnn) ∧ Instr.ldBVx 3 ≠ .ret ∧
    (∀ x, Instr.ldBVx 3 ≠ .ldVxK x) := by
  refine ⟨State.reset, _, rfl, ?_⟩
  simp
theorem test_witness_OnlyStoresChangeMemory :
    (∃ t, exec (.ldBVx 3) (atI 0xFFD) = .next t ∧ 0xFFC ∉ [(atI 0xFFD).ea 0, (atI 0xFFD).ea 1, (atI 0xFFD).ea 2]) ∧
    (∃ t, exec (.ldMiVx 2) (atI 0x300) = .next t ∧ 0x302 ∉ (List.range (2 : RegIdx).val).map (atI 0x300).ea) :=
  ⟨⟨_, rfl, by decide⟩, ⟨_, rfl, by decide⟩⟩
theorem test_witness_OnlyTheTabledFaultsAreRaised :
    (∃ t, exec .ret (atSp 0) = .next t ∧ t.fault ≠ (atSp 0).fault) ∧
    (∃ t, exec (.call 0x300#12) (atSp 32) = .next t ∧ t.fault ≠ (atSp 32).fault) ∧
    (∃ t, exec (.drw 0 0 1) (atI 0x1000) = .next t ∧ t.fault ≠ (atI 0x1000).fault) ∧
    (∃ t, exec (.ldVxMi 0) (atI 0x1000) = .next t ∧ t.fault ≠ (atI 0x1000).fault) ∧
    (∃ t, exec (.ldBVx 0) (atI 0xFFE) = .next t ∧ t.fault ≠ (atI 0xFFE).fault) ∧
    (∃ t, exec (.ldMiVx 1) (atI 0x1000) = .next t ∧ t.fault ≠ (atI 0x1000).fault) :=
  ⟨⟨_, rfl, by decide⟩, ⟨_, rfl, by decide⟩, ⟨_, rfl, by decide⟩, ⟨_, rfl, by decide⟩, ⟨_, rfl, by decide⟩, ⟨_, rfl, by decide⟩⟩
theorem test_witness_images : ([] : List Byte).length ≤ 0xE00 ∧ (List.replicate 0xE00 (0 : Byte)).length ≤ 0xE00 ∧
    0xE00 < (List.replicate 0xE01 (0 : Byte)).length :=
  ⟨Nat.zero_le _, by rw [List.length_replicate], by rw [List.length_replicate]; decide⟩

end Sys2Proof.Tests
end

section
/-! PROOFS. The timers in a completed cycle (spec 40_cycle.md R106, R107): which instructions write DT and ST, what the tick leaves of the
value written, and when the beep is emitted. -/

namespace Sys2Proof.Machine

/-! ### Who writes the timers -/

theorem Frame.dt_eq {w : Touched} {s t : State} (h : Frame w s t) (hw : w.dt = false) : t.dt = s.dt := by
  obtain ⟨_, _, _, _, _, hdt, _⟩ := h
  exact hdt hw

theorem Frame.st_eq {w : Touched} {s t : State} (h : Frame w s t) (hw : w.st = false) : t.st = s.st := by
  obtain ⟨_, _, _, _, _, _, hst, _⟩ := h
  exact hst hw

theorem touched_dt_eq_false {i : Instr} (hi : ∀ x, i ≠ .ldDtVx x) (s : State) : (touched i s).dt = false := by
  cases i
  case ldDtVx x => exact absurd rfl (hi x)
  all_goals rfl

theorem touched_st_eq_false {i : Instr} (hi : ∀ x, i ≠ .ldStVx x) (s : State) : (touched i s).st = false := by
  cases i
  case ldStVx x => exact absurd rfl (hi x)
  all_goals rfl

/-- Only FX15 writes DT during Execute (R27, R217). -/
theorem exec_dt_eq {i : Instr} {s t : State} (h : exec i s = .next t) (hi : ∀ x, i ≠ .ldDtVx x) : t.dt = s.dt := by
  rcases exec_cases h with ⟨hf, -⟩ | ⟨c, a, -, rfl⟩
  · exact hf.dt_eq (touched_dt_eq_false hi s)
  · rfl

/-- Only FX18 writes ST during Execute (R28, R218). -/
theorem exec_st_eq {i : Instr} {s t : State} (h : exec i s = .next t) (hi : ∀ x, i ≠ .ldStVx x) : t.st = s.st := by
  rcases exec_cases h with ⟨hf, -⟩ | ⟨c, a, -, rfl⟩
  · exact hf.st_eq (touched_st_eq_false hi s)
  · rfl

@[simp] theorem exec_ldDtVx (x : RegIdx) (s : State) : exec (.ldDtVx x) s = .next (s.setDt (s.reg x)) := rfl

@[simp] theorem exec_ldStVx (x : RegIdx) (s : State) : exec (.ldStVx x) s = .next (s.setSt (s.reg x)) := rfl

@[simp] theorem exec_ldVxDt (x : RegIdx) (s : State) : exec (.ldVxDt x) s = .next (s.setReg x s.dt) := rfl

/-! ### The tick at the end of the cycle -/

theorem State.endCycle_dt_toNat (u : State) : u.endCycle.dt.toNat = u.dt.toNat - 1 := by
  rw [State.endCycle_dt, tick_toNat]

theorem State.endCycle_st_toNat (u : State) : u.endCycle.st.toNat = u.st.toNat - 1 := by
  rw [State.endCycle_st, tick_toNat]

/-- In a cycle that has emitted no beep yet, the tick emits one exactly when it takes ST from 1 to 0 (R107). -/
theorem State.endCycle_beep_iff {u : State} (hb : u.beep = false) : u.endCycle.beep = true ↔ u.st = 1 := by
  rw [State.endCycle_beep]
  split
  · next h0 => simp [hb, h0]
  · simp

/-- Execute in a begun cycle emits no beep: that is the tick's alone (R47, R107). -/
theorem exec_beginCycle_beep {i : Instr} {s u : State} (h : exec i s.beginCycle.advancePc = .next u) : u.beep = false := by
  obtain ⟨-, -, hbeep, -⟩ := exec_keys h
  simpa using hbeep

/-! ### The obligations -/

/-- Settles O41: the completed cycle is the tick of the state that Execute left, and Execute changes DT by FX15 alone. -/
theorem delayTimerTicksAfterExecute : Obligations.DelayTimerTicksAfterExecute := by
  intro s t hstep hrun
  obtain ⟨u, hexec, rfl⟩ := step_running hstep hrun
  refine ⟨_, u, rfl, hexec, u.endCycle_dt_toNat, fun x hx => ?_, fun x hx => ?_, fun hne => ?_⟩
  · rw [hx, exec_ldDtVx, Host.Outcome.next.injEq] at hexec
    simp [← hexec, State.endCycle_dt_toNat]
  · rw [hx, exec_ldVxDt, Host.Outcome.next.injEq] at hexec
    simp [← hexec]
  · have hdt : u.dt = s.dt := by simpa using exec_dt_eq hexec hne
    rw [State.endCycle_dt_toNat, hdt]

/-- Settles O42: the completed cycle is the tick of the state that Execute left, Execute changes ST by FX18 alone, and it emits no beep. -/
theorem soundTimerTicksAndBeeps : Obligations.SoundTimerTicksAndBeeps := by
  intro s t hstep hrun
  obtain ⟨u, hexec, rfl⟩ := step_running hstep hrun
  have hticks : u.endCycle.st.toNat = u.st.toNat - 1 := u.endCycle_st_toNat
  have hbeeps : u.endCycle.beep = true ↔ u.st = 1 := State.endCycle_beep_iff (exec_beginCycle_beep hexec)
  refine ⟨_, u, rfl, hexec, hticks, hbeeps, fun x hx => ?_, fun hne => ?_⟩
  · have hst : u.st = s.reg x := by
      rw [hx, exec_ldStVx, Host.Outcome.next.injEq] at hexec
      simp [← hexec]
    exact hst ▸ ⟨hticks, hbeeps⟩
  · have hst : u.st = s.st := by simpa using exec_st_eq hexec hne
    exact hst ▸ ⟨hticks, hbeeps⟩

end Sys2Proof.Machine
end

section
/-! PROOFS. Control flow (spec 41_control_flow.md): the six skips. Each instruction is the shared skip under its own comparison. -/

namespace Sys2Proof.Machine

/-! ### The skip instructions as the shared skip -/

@[simp] theorem exec_seImm (x : RegIdx) (nn : Byte) (s : State) :
    exec (.seImm x nn) s = .next (s.skipIf (s.reg x == nn)) := rfl

@[simp] theorem exec_sneImm (x : RegIdx) (nn : Byte) (s : State) :
    exec (.sneImm x nn) s = .next (s.skipIf (s.reg x != nn)) := rfl

@[simp] theorem exec_seReg (x y : RegIdx) (s : State) :
    exec (.seReg x y) s = .next (s.skipIf (s.reg x == s.reg y)) := rfl

@[simp] theorem exec_sneReg (x y : RegIdx) (s : State) :
    exec (.sneReg x y) s = .next (s.skipIf (s.reg x != s.reg y)) := rfl

@[simp] theorem exec_skp (x : RegIdx) (s : State) :
    exec (.skp x) s = .next (s.skipIf (keyPressed (s.reg x) s)) := rfl

@[simp] theorem exec_sknp (x : RegIdx) (s : State) :
    exec (.sknp x) s = .next (s.skipIf (!keyPressed (s.reg x) s)) := rfl

/-- EXA1's test is the negation of EX9E's, so a value of 16 or more, which names no key, passes it (R210, R211). -/
theorem not_keyPressed_iff (s : State) (b : Byte) : (!keyPressed b s) = true ↔ ¬ KeyHeld s b := by
  rw [← keyPressed_iff, Bool.not_eq_true', Bool.not_eq_true]

/-! ### The obligations -/

/-- Settles O11: each of the six is `skipIf` of a Boolean test, and the test decides the comparison. -/
theorem skipsAdvanceByTwo : Obligations.SkipsAdvanceByTwo := by
  intro x y nn s
  rw [exec_seImm, exec_sneImm, exec_seReg, exec_sneReg, exec_skp, exec_sknp]
  exact ⟨skipsWhen_skipIf s _ _ beq_iff_eq, skipsWhen_skipIf s _ _ bne_iff_ne,
    skipsWhen_skipIf s _ _ beq_iff_eq, skipsWhen_skipIf s _ _ bne_iff_ne,
    skipsWhen_skipIf s _ _ (keyPressed_iff s _), skipsWhen_skipIf s _ _ (not_keyPressed_iff s _)⟩

end Sys2Proof.Machine
end

section
/-! PROOFS. The immediate loads and adds (spec 42_alu.md R141, R142): their words, and the register write they share. -/

namespace Sys2Proof.Machine

/-! ### A register write -/

theorem frame_setReg (x : RegIdx) (b : Byte) (s : State) : Frame { regs := [x] } s (s.setReg x b) := by
  simp +contextual [Frame]

@[simp] theorem exec_ldImm (x : RegIdx) (nn : Byte) (s : State) : exec (.ldImm x nn) s = .next (s.setReg x nn) := rfl

@[simp] theorem exec_addImm (x : RegIdx) (nn : Byte) (s : State) :
    exec (.addImm x nn) s = .next (s.setReg x (addResult (s.reg x) nn)) := rfl

/-! ### Families 6 and 7 -/

theorem decode_of_family_six {op : Word} (h : family op = 6) : decode op = .ldImm (fieldX op) (fieldNN op) := by
  simp only [decode, decodeWith, h]

theorem decode_of_family_seven {op : Word} (h : family op = 7) : decode op = .addImm (fieldX op) (fieldNN op) := by
  simp only [decode, decodeWith, h]

theorem decode_form6XNN (x : RegIdx) (nn : Byte) : decode (formXNN 0x6#4 x nn) = .ldImm x nn := by
  rw [decode_of_family_six (family_formXNN _ x nn), fieldX_formXNN, fieldNN_formXNN]

theorem decode_form7XNN (x : RegIdx) (nn : Byte) : decode (formXNN 0x7#4 x nn) = .addImm x nn := by
  rw [decode_of_family_seven (family_formXNN _ x nn), fieldX_formXNN, fieldNN_formXNN]

/-! ### The obligations -/

/-- Settles O14: 6XNN is the register write of its own operand. -/
theorem loadImmediateSetsRegister : Obligations.LoadImmediateSetsRegister := fun x nn s =>
  ⟨decode_form6XNN x nn, _, exec_ldImm x nn s, s.setReg_reg_same x nn, frame_setReg x nn s⟩

/-- Settles O15: 7XNN is the register write of the wrapped sum, which has no second write to carry a flag. -/
theorem addImmediateWrapsWithoutFlag : Obligations.AddImmediateWrapsWithoutFlag := by
  intro x nn s
  refine ⟨decode_form7XNN x nn, _, exec_addImm x nn s, ?_, frame_setReg x _ s⟩
  rw [State.setReg_reg_same, addResult_toNat]

end Sys2Proof.Machine
end

section
/-! PROOFS. Register stores and loads (spec 43_index_memory.md R176 to R178): FX55 and FX65 in range as the shared multi-byte operations,
and what a store leaves at the addresses a load of the same I reads. -/

namespace Sys2Proof.Machine

theorem AccessInRange.of_succ {s : State} {n : Nat} (h : AccessInRange s (n + 1)) : AccessInRange s n := by
  unfold AccessInRange at *
  omega

theorem AccessInRange.congr_i {s t : State} {n : Nat} (h : AccessInRange s n) (hi : t.i = s.i) : AccessInRange t n := by
  rwa [AccessInRange, hi]

/-- The effective addresses are I's alone (R54). -/
theorem State.ea_congr {s t : State} (hi : t.i = s.i) (k : Nat) : t.ea k = s.ea k := by
  rw [State.ea, hi, State.ea]

/-! ### FX55 and FX65 in range -/

theorem exec_ldMiVx_in_range {x : RegIdx} {s : State} (h : AccessInRange s x.val) :
    exec (.ldMiVx x) s = .next (s.storeBytes x.val (fun k => s.reg (Fin.ofNat 16 k))) :=
  checkAccess_in_range _ _ _ _ h

theorem exec_ldVxMi_in_range {x : RegIdx} {s : State} (h : AccessInRange s (x.val + 1)) :
    exec (.ldVxMi x) s = .next (s.loadRegs (x.val + 1)) :=
  checkAccess_in_range _ _ _ _ h

/-! ### The bytes from I on after a store -/

theorem State.storeBytes_byteAt_ea_of_lt (s : State) {n k : Nat} (f : Nat → Byte) (hn : AccessInRange s n) (hk : k < n) :
    (s.storeBytes n f).byteAt (s.ea k) = f k := by
  rw [State.storeBytes_byteAt s n f hn, State.ea, if_pos (by omega), Nat.add_sub_cancel_left]

theorem State.storeBytes_byteAt_ea_of_le (s : State) {n k : Nat} (f : Nat → Byte) (hn : AccessInRange s n) (hk : n ≤ k) :
    (s.storeBytes n f).byteAt (s.ea k) = s.byteAt (s.ea k) := by
  rw [State.storeBytes_byteAt s n f hn, State.ea, if_neg (by omega)]

/-! ### The obligations -/

/-- Settles O26: the load reads one byte more than the store wrote. Below X it reads the stored registers, at X the older byte, and a
store of no bytes is the state itself. -/
theorem storeThenRestoreIsAsymmetric : Obligations.StoreThenRestoreIsAsymmetric := by
  intro x s hload
  have hstore : AccessInRange s x.val := hload.of_succ
  refine ⟨_, exec_ldMiVx_in_range hstore, ?_, fun t' hi hmem => ⟨_, exec_ldVxMi_in_range (hload.congr_i hi), ?_, ?_, ?_⟩⟩
  · rintro rfl a
    rfl
  · intro k hk
    rw [State.loadRegs_reg _ _ (by omega), if_pos (by omega), hmem, State.ea_congr hi,
      s.storeBytes_byteAt_ea_of_lt _ hstore hk, Fin.ofNat_val_eq_self]
  · rw [State.loadRegs_reg _ _ (by omega), if_pos (by omega), hmem, State.ea_congr hi,
      s.storeBytes_byteAt_ea_of_le _ hstore le_rfl]
  · intro k hk
    rw [State.loadRegs_reg _ _ (by omega), if_neg (by omega)]

end Sys2Proof.Machine
end

section
/-! PROOFS. The display (spec 44_display.md R191 to R197): what one drawing does to the pixels, to VF and to DrawFlag, and the same sprite
drawn twice. -/

namespace Sys2Proof.Machine

/-! ### DXYN in range as one update of the state -/

/-- The state DXYN leaves when it does not fault (R191). -/
def State.draw (s : State) (x y : RegIdx) (n : Fin 16) : State := s.putDrawing (spriteDrawing x y n s)

theorem exec_drw_in_range {x y : RegIdx} {n : Fin 16} {s : State} (h : AccessInRange s n.val) :
    exec (.drw x y n) s = .next (s.draw x y n) :=
  checkAccess_in_range _ _ _ _ h

@[simp] theorem State.draw_i (s : State) (x y : RegIdx) (n : Fin 16) : (s.draw x y n).i = s.i := rfl

@[simp] theorem State.draw_byteAt (s : State) (x y : RegIdx) (n : Fin 16) (a : Nat) : (s.draw x y n).byteAt a = s.byteAt a := rfl

@[simp] theorem State.draw_drawFlag (s : State) (x y : RegIdx) (n : Fin 16) : (s.draw x y n).drawFlag = true := rfl

/-- A pixel is inverted exactly when the sprite covers it (R192, R194). -/
theorem State.draw_pixel (s : State) (x y : RegIdx) (n : Fin 16) (row : Fin 32) (col : Fin 64) :
    (s.draw x y n).pixel row col = (s.pixel row col ^^
      spriteCovers (fun r => s.byteAt (s.ea r)) n.val (s.reg x).toNat (s.reg y).toNat row col) :=
  spriteDrawing_pixel x y n s row col

theorem State.draw_reg_flag (s : State) (x y : RegIdx) (n : Fin 16) :
    (s.draw x y n).reg 15 = flagByte (spriteDrawing x y n s).2 :=
  s.putDrawing_reg _ 15

/-! ### VF after a drawing -/

theorem flagByte_eq_zero_or_one (f : Bool) : flagByte f = 0 ∨ flagByte f = 1 := by
  cases f
  · exact .inl rfl
  · exact .inr rfl

theorem flagByte_eq_one_iff (f : Bool) : flagByte f = 1 ↔ f = true := by
  cases f <;> decide

theorem State.draw_flag_eq_zero_or_one (s : State) (x y : RegIdx) (n : Fin 16) :
    (s.draw x y n).reg 15 = 0 ∨ (s.draw x y n).reg 15 = 1 := by
  rw [State.draw_reg_flag]
  exact flagByte_eq_zero_or_one _

/-- A covered pixel that was set is one that the drawing turns off, so VF says that there is such a pixel (R195). -/
theorem State.draw_flag_eq_one_iff (s : State) (x y : RegIdx) (n : Fin 16) :
    (s.draw x y n).reg 15 = 1 ↔ ∃ row col, s.pixel row col = true ∧ (s.draw x y n).pixel row col = false := by
  rw [State.draw_reg_flag, flagByte_eq_one_iff, spriteDrawing_collision]
  refine exists₂_congr fun row col => ?_
  rw [State.draw_pixel, and_comm]
  exact and_congr_right fun hlit => by simp [hlit]

/-! ### The same sprite drawn twice -/

/-- With the coordinates kept, the second drawing covers the same pixels, and inverting a pixel twice gives it back. -/
theorem State.draw_draw_pixel (s : State) (x y : RegIdx) (n : Fin 16) (hx : (s.draw x y n).reg x = s.reg x)
    (hy : (s.draw x y n).reg y = s.reg y) (row : Fin 32) (col : Fin 64) :
    ((s.draw x y n).draw x y n).pixel row col = s.pixel row col := by
  rw [State.draw_pixel (s.draw x y n), hx, hy]
  simp only [State.draw_byteAt, State.ea_congr (s.draw_i x y n)]
  rw [State.draw_pixel, Bool.xor_assoc, Bool.xor_self, Bool.xor_false]

/-! ### Who writes DrawFlag -/

theorem Frame.drawFlag_eq {w : Touched} {s t : State} (h : Frame w s t) (hw : w.drawFlag = false) : t.drawFlag = s.drawFlag := by
  obtain ⟨_, _, _, _, _, _, _, _, hflag, _⟩ := h
  exact hflag hw

theorem touched_drawFlag_eq_false {i : Instr} (hi : ∀ x y n, i ≠ .drw x y n) (s : State) : (touched i s).drawFlag = false := by
  cases i
  case drw x y n => exact absurd rfl (hi x y n)
  all_goals rfl

/-- Only DXYN writes DrawFlag during Execute (R33, R197). -/
theorem exec_drawFlag_eq {i : Instr} {s t : State} (h : exec i s = .next t) (hi : ∀ x y n, i ≠ .drw x y n) :
    t.drawFlag = s.drawFlag := by
  rcases exec_cases h with ⟨hf, -⟩ | ⟨c, a, -, rfl⟩
  · exact hf.drawFlag_eq (touched_drawFlag_eq_false hi s)
  · rfl

/-- DXYN sets DrawFlag, or faults and leaves it. -/
theorem exec_drw_keeps_drawFlag {x y : RegIdx} {n : Fin 16} {s t : State} (h : exec (.drw x y n) s = .next t)
    (hs : s.drawFlag = true) : t.drawFlag = true := by
  rcases checkAccess_cases .readFault n.val s (s.draw x y n) with ⟨-, hdraw⟩ | ⟨-, -, hfault⟩
  · cases h.symm.trans hdraw
    exact s.draw_drawFlag x y n
  · cases h.symm.trans hfault
    exact hs

theorem exec_keeps_drawFlag {i : Instr} {s t : State} (h : exec i s = .next t) (hs : s.drawFlag = true) : t.drawFlag = true := by
  by_cases hi : ∃ x y n, i = .drw x y n
  · obtain ⟨x, y, n, rfl⟩ := hi
    exact exec_drw_keeps_drawFlag h hs
  · rw [exec_drawFlag_eq h (fun x y n he => hi ⟨x, y, n, he⟩), hs]

theorem step_keeps_drawFlag {s t : State} (h : step s = .next t) (hs : s.drawFlag = true) : t.drawFlag = true := by
  obtain ⟨-, ⟨-, rfl⟩ | ⟨-, u, hexec, hend⟩⟩ := step_next_cases h
  · simpa using hs
  · have hu : u.drawFlag = true := exec_keeps_drawFlag hexec (by simpa using hs)
    rcases hend with ⟨-, rfl⟩ | ⟨-, rfl⟩
    · simpa using hu
    · exact hu

/-! ### The obligations -/

/-- Settles O31: VF of a drawing says that it turned a pixel off. The second drawing gives back the display, so what it turned off is what
the first turned on. -/
theorem collisionAndDrawingTwice : Obligations.CollisionAndDrawingTwice := by
  intro x y n s hr
  refine ⟨_, exec_drw_in_range hr, s.draw_flag_eq_zero_or_one x y n, s.draw_flag_eq_one_iff x y n, fun hx hy => ?_⟩
  have hback := s.draw_draw_pixel x y n hx hy
  refine ⟨_, exec_drw_in_range (hr.congr_i (s.draw_i x y n)), hback, State.draw_flag_eq_zero_or_one _ x y n, ?_⟩
  rw [State.draw_flag_eq_one_iff]
  refine exists₂_congr fun row col => ?_
  rw [hback, and_comm]

/-- Settles O32: DXYN in range sets DrawFlag whatever it draws; no other instruction, no fault and no part of the cycle writes it. -/
theorem drawFlagIsSetAndNeverCleared : Obligations.DrawFlagIsSetAndNeverCleared :=
  ⟨fun x y n s hr => ⟨_, exec_drw_in_range hr, s.draw_drawFlag x y n⟩, fun _ _ => step_keeps_drawFlag⟩

end Sys2Proof.Machine
end

section
/-! PROOFS. The load (70_reset_and_hazards.md R272): the operation that places the image is the host's `placeWord`, so the load is that
operation's read-back and its frame, at the program base. -/

namespace Sys2Proof.Machine

/-! ### Bytes placed by the host: the frame -/

/-- Placing bytes touches the addresses from `a` on, one for each byte, and nothing else. -/
theorem frame_placeWord (s : State) (a : Nat) (bs : List Byte) :
    Frame { mem := (List.range bs.length).map (a + ·) } s (s.placeWord a bs) := by
  have hmem : ∀ a' ∉ (List.range bs.length).map (a + ·), (s.placeWord a bs).byteAt a' = s.byteAt a' := fun a' ha' => by
    rw [← List.range'_eq_map_range, List.mem_range'_1] at ha'
    exact State.placeWord_byteAt_other s a bs a' (by omega)
  simpa [Frame] using hmem

/-! ### The host's acts -/

/-- An image that fits is placed at the program base (R272). -/
theorem hostLoadImage_of_fits {image : List Byte} (s : State) (h : image.length ≤ maxImage) :
    hostLoadImage image s = .next (s.placeWord programBase image) := if_pos h

/-- An image that fits ends inside memory (R273). -/
theorem programBase_add_length_le {image : List Byte} (h : image.length ≤ maxImage) : programBase + image.length ≤ memSize := by
  simp only [maxImage, memSize, programBase] at h ⊢
  omega

@[simp] theorem hostWriteKeys_byteAt (k : KeyMatrix) (s : State) (a : Nat) : (hostWriteKeys k s).byteAt a = s.byteAt a := rfl

@[simp] theorem hostSupplyKeys_byteAt (k : KeyMatrix) (s : State) (a : Nat) : (hostSupplyKeys k s).byteAt a = s.byteAt a := rfl

/-! ### The obligation -/

/-- Settles O58: the load of an image that fits places it at 0x200, where each byte reads back and nothing else is touched; giving keys
writes no memory. -/
theorem imageIsCopiedFrom0x200 : Obligations.ImageIsCopiedFrom0x200 := by
  intro image keys s
  refine ⟨fun hfits => ⟨_, hostLoadImage_of_fits s hfits, fun k hk => ?_, fun a ha => ?_, frame_placeWord s programBase image⟩,
    fun a => ⟨hostWriteKeys_byteAt keys s a, hostSupplyKeys_byteAt keys s a⟩⟩
  · exact s.placeWord_byteAt programBase image k hk (programBase_add_length_le hfits)
  · exact s.placeWord_byteAt_other programBase image a ha

end Sys2Proof.Machine
end

section
/-! PROOFS. The encoding (spec 30_encoding.md R70 to R79): decode after encode, encode after decode, and the words of UNKNOWN. -/

namespace Sys2Proof

/-! ### Decode after encode -/

/-- The words of CLS and RET in format F-NNN. -/
theorem formNNN_zero_eq_iff (nnn : Addr12) :
    (formNNN 0x0#4 nnn = 0x00E0#16 ↔ nnn = 0x0E0#12) ∧ (formNNN 0x0#4 nnn = 0x00EE#16 ↔ nnn = 0x0EE#12) := by
  simp only [← BitVec.toNat_inj, formNNN_toNat, BitVec.toNat_ofNat]
  omega

/-- Family 0 keeps the words of CLS and RET from SYS (R76, R80). -/
theorem decode_form0NNN {nnn : Addr12} (hcls : nnn ≠ 0x0E0#12) (hret : nnn ≠ 0x0EE#12) :
    decode (formNNN 0x0#4 nnn) = .sys nnn := by
  obtain ⟨hc, hr⟩ := formNNN_zero_eq_iff nnn
  have hfam : family (formNNN 0x0#4 nnn) = 0 := family_formNNN _ _
  simp only [decode, decodeWith, hfam, if_neg (mt hc.1 hcls), if_neg (mt hr.1 hret), fieldNNN_formNNN]

theorem decode_unknown {raw : Word} (h : isUnrecognized Params.decode59LowNibble raw = true) : decode raw = .unknown raw :=
  (decodeWith_unknown_iff _ _).2 h

/-- Every well-formed instruction is the decoding of its own word (R76). -/
theorem decode_encode {i : Instr} (h : i.wellFormed = true) : decode (encode i) = i := by
  cases i
  case sys nnn =>
    obtain ⟨hcls, hret⟩ : nnn ≠ 0x0E0#12 ∧ nnn ≠ 0x0EE#12 := by simpa [Instr.wellFormed] using h
    exact decode_form0NNN hcls hret
  case unknown raw => exact decode_unknown h
  case cls => rfl
  case ret => rfl
  -- The other words are of families 1 to F, where the formats give the operands back.
  all_goals simp [encode, decode, decodeWith, decode8, decodeE, decodeF]

/-- The decoder reads the two bytes of an instruction, high byte first, and leaves what follows (R51, R70). -/
theorem decodeBytes_encodeBytes (i : Instr) (rest : List Byte) :
    decodeBytes (encodeBytes i ++ rest) = .ok (decode (encode i), rest) := by
  simp [encodeBytes, decodeBytes]

/-- Settles O3: the two bytes make up the word again, and that word decodes to the instruction. -/
theorem encodedInstructionDecodesBack : Obligations.EncodedInstructionDecodesBack := by
  intro i rest hwf
  rw [decodeBytes_encodeBytes, decode_encode hwf]

/-! ### The words of UNKNOWN -/

/-- The list of R78, family by family. -/
theorem isUnrecognized_iff (mode : LowNibbleMode) (op : Word) : isUnrecognized mode op = true ↔
    (family op = 0x8 ∧ fieldN op ∈ ([0x8, 0x9, 0xA, 0xB, 0xC, 0xD, 0xF] : List (Fin 16))) ∨
    (family op = 0xE ∧ fieldNN op ∉ ([0x9E, 0xA1] : List Byte)) ∨
    (family op = 0xF ∧ fieldNN op ∉ ([0x07, 0x0A, 0x15, 0x18, 0x1E, 0x29, 0x33, 0x55, 0x65] : List Byte)) ∨
    (mode = .strict ∧ (family op = 0x5 ∨ family op = 0x9) ∧ fieldN op ≠ 0) := by
  have hlt := family_lt op
  unfold isUnrecognized
  generalize family op = f at hlt
  interval_cases f <;> simp [and_comm]

theorem mem_unknown_nibbles_iff (n : Fin 16) :
    n ∈ ([0x8, 0x9, 0xA, 0xB, 0xC, 0xD, 0xF] : List (Fin 16)) ↔ (0x8 ≤ n.val ∧ n.val ≤ 0xD) ∨ n.val = 0xF := by
  revert n; decide

/-- Settles O5: UNKNOWN carries the raw word, and the decoder answers it exactly on the list of R78. -/
theorem unrecognizedWordsAreExactlyTheListed : Obligations.UnrecognizedWordsAreExactlyTheListed := by
  intro mode op raw
  have hraw : decodeWith mode op = .unknown raw ↔ raw = op ∧ decodeWith mode op = .unknown op :=
    ⟨fun h => by obtain rfl := decodeWith_unknown h; exact ⟨rfl, h⟩, fun ⟨e, h⟩ => e ▸ h⟩
  rw [hraw, decodeWith_unknown_iff, isUnrecognized_iff, mem_unknown_nibbles_iff]
  simp [not_or]

/-! ### Encode after decode -/

/-- The word again, or the word of a skip with N dropped (R79). -/
def EncodesBack (mode : LowNibbleMode) (op : Word) : Prop :=
  encode (decodeWith mode op) = op ∨
    (mode = .ignore ∧ (family op = 5 ∨ family op = 9) ∧ fieldN op ≠ 0 ∧
      encode (decodeWith mode op) = formXYN (op.extractLsb' 12 4) (fieldX op) (fieldY op) 0)

theorem encode_decode_family_zero {mode : LowNibbleMode} {op : Word} (hf : family op = 0) : encode (decodeWith mode op) = op := by
  simp only [decodeWith, hf]
  split
  · next h => exact h.symm
  · split
    · next h => exact h.symm
    · exact formNNN_fields op 0x0#4 hf

/-- Families 5 and 9: with N = 0 the skip has all the fields, otherwise it is UNKNOWN or drops N (R79). -/
theorem encodesBack_skip (mode : LowNibbleMode) {op : Word} {h : BitVec 4} {skip : Instr} (hf : family op = h.toNat)
    (hskip : encode skip = formXYN h (fieldX op) (fieldY op) 0) :
    encode (if fieldN op = 0 then skip else decode59 mode op skip) = op ∨
      (mode = .ignore ∧ fieldN op ≠ 0 ∧ encode (if fieldN op = 0 then skip else decode59 mode op skip) =
        formXYN (op.extractLsb' 12 4) (fieldX op) (fieldY op) 0) := by
  by_cases hn : fieldN op = 0
  · left
    rw [if_pos hn, hskip, ← hn, formXYN_fields op h hf]
  · have hnibble : op.extractLsb' 12 4 = h := BitVec.eq_of_toNat_eq hf
    rw [if_neg hn, hnibble]
    cases mode
    · exact .inl rfl
    · exact .inr ⟨rfl, hn, hskip⟩

theorem encodesBack (mode : LowNibbleMode) (op : Word) : EncodesBack mode op := by
  match hf : family op, family_lt op with
  | 0, _ => exact .inl (encode_decode_family_zero hf)
  | 1, _ => exact .inl (by simp only [decodeWith, hf]; exact formNNN_fields op 0x1#4 hf)
  | 2, _ => exact .inl (by simp only [decodeWith, hf]; exact formNNN_fields op 0x2#4 hf)
  | 3, _ => exact .inl (by simp only [decodeWith, hf]; exact formXNN_fields op 0x3#4 hf)
  | 4, _ => exact .inl (by simp only [decodeWith, hf]; exact formXNN_fields op 0x4#4 hf)
  | 5, _ =>
    simp only [EncodesBack, decodeWith, hf, true_or, true_and]
    exact encodesBack_skip mode (h := 0x5#4) hf rfl
  | 6, _ => exact .inl (by simp only [decodeWith, hf]; exact formXNN_fields op 0x6#4 hf)
  | 7, _ => exact .inl (by simp only [decodeWith, hf]; exact formXNN_fields op 0x7#4 hf)
  | 8, _ => exact .inl (by simp only [decodeWith, hf]; exact encode_decode8 op hf)
  | 9, _ =>
    simp only [EncodesBack, decodeWith, hf, or_true, true_and]
    exact encodesBack_skip mode (h := 0x9#4) hf rfl
  | 10, _ => exact .inl (by simp only [decodeWith, hf]; exact formNNN_fields op 0xA#4 hf)
  | 11, _ => exact .inl (by simp only [decodeWith, hf]; exact formNNN_fields op 0xB#4 hf)
  | 12, _ => exact .inl (by simp only [decodeWith, hf]; exact formXNN_fields op 0xC#4 hf)
  | 13, _ => exact .inl (by simp only [decodeWith, hf]; exact formXYN_fields op 0xD#4 hf)
  | 14, _ => exact .inl (by simp only [decodeWith, hf]; exact encode_decodeE op hf)
  | 15, _ => exact .inl (by simp only [decodeWith, hf]; exact encode_decodeF op hf)
  | _ + 16, hlt => omega

/-- SYS is decoded from its own word, which is neither that of CLS nor that of RET (R76). -/
theorem decodeWith_sys {mode : LowNibbleMode} {op : Word} {nnn : Addr12} (h : decodeWith mode op = .sys nnn) :
    op = formNNN 0x0#4 nnn ∧ op ≠ 0x00E0#16 ∧ op ≠ 0x00EE#16 := by
  have hop : op = formNNN 0x0#4 nnn := by
    rcases encodesBack mode op with he | ⟨-, hf, -, he⟩
    · rw [← he, h, encode]
    · have := congrArg family he
      rw [h, encode, family_formNNN, family_formXYN, ← family] at this
      simp at this
      omega
  refine ⟨hop, ?_, ?_⟩
  · rintro rfl
    exact absurd h (by simp [decodeWith, show family 0x00E0#16 = 0 from rfl])
  · rintro rfl
    exact absurd h (by simp [decodeWith, show family 0x00EE#16 = 0 from rfl])

theorem wellFormed_iff (i : Instr) : i.wellFormed = true ↔
    (∀ nnn, i = .sys nnn → nnn ≠ 0x0E0#12 ∧ nnn ≠ 0x0EE#12) ∧
    (∀ raw, i = .unknown raw → isUnrecognized Params.decode59LowNibble raw = true) := by
  cases i <;> simp [Instr.wellFormed]

theorem decode_wellFormed (op : Word) : (decode op).wellFormed = true := by
  refine (wellFormed_iff _).2 ⟨fun nnn h => ?_, fun raw h => ?_⟩
  · obtain ⟨rfl, hcls, hret⟩ := decodeWith_sys h
    obtain ⟨hc, hr⟩ := formNNN_zero_eq_iff nnn
    exact ⟨mt hc.2 hcls, mt hr.2 hret⟩
  · obtain rfl := decodeWith_unknown h
    exact (decodeWith_unknown_iff _ _).1 h

/-- Settles O4: the decoder answers SYS and UNKNOWN on their own words alone, and keeps every field but N of a skip. -/
theorem everyWordDecodesAndEncodesBack : Obligations.EveryWordDecodesAndEncodesBack := fun op =>
  ⟨decode_wellFormed op, encodesBack _ op⟩

/-! ### The formats -/

/-- Settles O2: each format with its fixed bits is the word of its instruction, which decodes back. -/
theorem everyFormatDecodesItsOperands : Obligations.EveryFormatDecodesItsOperands := by
  refine ⟨⟨decode_encode (i := .cls) rfl, decode_encode (i := .ret) rfl⟩, fun nnn => ⟨decode_form0NNN, ?_⟩,
    fun x nn => ?_, fun x y => ?_, fun x => ?_⟩
  · exact ⟨decode_encode (i := .jp nnn) rfl, decode_encode (i := .call nnn) rfl, decode_encode (i := .ldI nnn) rfl,
      decode_encode (i := .jpV0 nnn) rfl⟩
  · exact ⟨decode_encode (i := .seImm x nn) rfl, decode_encode (i := .sneImm x nn) rfl, decode_encode (i := .ldImm x nn) rfl,
      decode_encode (i := .addImm x nn) rfl, decode_encode (i := .rnd x nn) rfl⟩
  · exact ⟨decode_encode (i := .seReg x y) rfl, decode_encode (i := .sneReg x y) rfl, decode_encode (i := .ldReg x y) rfl,
      decode_encode (i := .or x y) rfl, decode_encode (i := .and x y) rfl, decode_encode (i := .xor x y) rfl,
      decode_encode (i := .addReg x y) rfl, decode_encode (i := .sub x y) rfl, decode_encode (i := .shr x y) rfl,
      decode_encode (i := .subn x y) rfl, decode_encode (i := .shl x y) rfl, fun n => decode_encode (i := .drw x y n) rfl⟩
  · exact ⟨decode_encode (i := .skp x) rfl, decode_encode (i := .sknp x) rfl, decode_encode (i := .ldVxDt x) rfl,
      decode_encode (i := .ldVxK x) rfl, decode_encode (i := .ldDtVx x) rfl, decode_encode (i := .ldStVx x) rfl,
      decode_encode (i := .addIVx x) rfl, decode_encode (i := .ldFVx x) rfl, decode_encode (i := .ldBVx x) rfl,
      decode_encode (i := .ldMiVx x) rfl, decode_encode (i := .ldVxMi x) rfl⟩

/-- Settles O1: the decoder run on each word, none of which depends on DECODE_59_LOW_NIBBLE. -/
theorem sampleWordsDecode : Obligations.SampleWordsDecode := by
  unfold Obligations.SampleWordsDecode
  decide

/-! ### Families 5 and 9 -/

theorem decode_eq_strict_or_ignore (op : Word) : decode op = decodeWith .strict op ∨ decode op = decodeWith .ignore op := by
  rw [decode]
  cases Params.decode59LowNibble
  · exact .inl rfl
  · exact .inr rfl

/-- Settles O6: with N not 0 both families answer what the parameter says, and this machine has one of its two values. -/
theorem lowNibbleParameterDecidesFamilies5And9 : Obligations.LowNibbleParameterDecidesFamilies5And9 := by
  intro op hn
  have hreads : ∀ skip, decodeWith .strict op = .unknown op → decodeWith .ignore op = skip →
      decodeWith .strict op = .unknown op ∧ decodeWith .ignore op = skip ∧ (decode op = .unknown op ∨ decode op = skip) :=
    fun skip hs hi => ⟨hs, hi, (decode_eq_strict_or_ignore op).imp (·.trans hs) (·.trans hi)⟩
  refine ⟨fun hf => hreads _ ?_ ?_, fun hf => hreads _ ?_ ?_⟩
  all_goals simp only [decodeWith, hf, if_neg hn, decode59]

end Sys2Proof
end

section
/-! PROOFS. What each instruction answers, as an equation: its own update of the state, or the recorded fault where it can fault. -/

namespace Sys2Proof.Machine

/-! ### Instructions with one answer -/

@[simp] theorem exec_cls (s : State) : exec .cls s = .next { s with disp := Display.blank } := rfl

@[simp] theorem exec_sys (nnn : Addr12) (s : State) : exec (.sys nnn) s = .next s := rfl

@[simp] theorem exec_unknown (raw : Word) (s : State) : exec (.unknown raw) s = .next s := rfl

@[simp] theorem exec_jp (nnn : Addr12) (s : State) : exec (.jp nnn) s = .next (s.setPc (addrOf nnn)) := rfl

@[simp] theorem exec_jpV0 (nnn : Addr12) (s : State) :
    exec (.jpV0 nnn) s = .next (s.setPc (jumpOffsetTarget nnn (s.reg 0))) := rfl

@[simp] theorem exec_ldReg (x y : RegIdx) (s : State) : exec (.ldReg x y) s = .next (s.setReg x (s.reg y)) := rfl

@[simp] theorem exec_or (x y : RegIdx) (s : State) : exec (.or x y) s = .next (s.setReg x (s.reg x ||| s.reg y)) := rfl

@[simp] theorem exec_and (x y : RegIdx) (s : State) : exec (.and x y) s = .next (s.setReg x (s.reg x &&& s.reg y)) := rfl

@[simp] theorem exec_xor (x y : RegIdx) (s : State) : exec (.xor x y) s = .next (s.setReg x (s.reg x ^^^ s.reg y)) := rfl

@[simp] theorem exec_addReg (x y : RegIdx) (s : State) : exec (.addReg x y) s =
    .next (writeResultAndFlag x (addResult (s.reg x) (s.reg y)) (addCarry (s.reg x) (s.reg y)) s) := rfl

@[simp] theorem exec_sub (x y : RegIdx) (s : State) : exec (.sub x y) s =
    .next (writeResultAndFlag x (subResult (s.reg x) (s.reg y)) (subNoBorrow (s.reg x) (s.reg y)) s) := rfl

@[simp] theorem exec_subn (x y : RegIdx) (s : State) : exec (.subn x y) s =
    .next (writeResultAndFlag x (subResult (s.reg y) (s.reg x)) (subNoBorrow (s.reg y) (s.reg x)) s) := rfl

@[simp] theorem exec_shr (x y : RegIdx) (s : State) : exec (.shr x y) s =
    .next (writeResultAndFlag x (shrResult (s.reg x)) (shrOut (s.reg x)) s) := rfl

@[simp] theorem exec_shl (x y : RegIdx) (s : State) : exec (.shl x y) s =
    .next (writeResultAndFlag x (shlResult (s.reg x)) (shlOut (s.reg x)) s) := rfl

@[simp] theorem exec_rnd (x : RegIdx) (nn : Byte) (s : State) : exec (.rnd x nn) s =
    .next (s.countDraw.setReg x (Config.rndDraw s.draws &&& nn)) := rfl

@[simp] theorem exec_ldI (nnn : Addr12) (s : State) : exec (.ldI nnn) s = .next (s.setI (addrOf nnn)) := rfl

@[simp] theorem exec_addIVx (x : RegIdx) (s : State) : exec (.addIVx x) s = .next (s.setI (s.i + wide (s.reg x))) := rfl

@[simp] theorem exec_ldFVx (x : RegIdx) (s : State) : exec (.ldFVx x) s = .next (s.setI (glyphAddr (s.reg x))) := rfl

/-! ### The stack -/

theorem exec_ret_of_pos {s : State} (h : 0 < s.sp.val) : exec .ret s = .next (s.popPc h) := dif_pos h

theorem exec_ret_of_empty {s : State} (h : s.sp.val = 0) : exec .ret s = .next (s.rewindPc.recordFault .stackUnderflow 0) :=
  dif_neg (by omega)

theorem exec_call_of_lt {s : State} (nnn : Addr12) (h : s.sp.val < 32) :
    exec (.call nnn) s = .next ((s.push h s.pc).setPc (addrOf nnn)) := dif_pos h

theorem exec_call_of_full {s : State} (nnn : Addr12) (h : s.sp.val = 32) :
    exec (.call nnn) s = .next (s.rewindPc.recordFault .stackOverflow 0) := dif_neg (by omega)

/-- RET has popped, or has faulted on an empty stack. -/
theorem exec_ret_next {s t : State} (h : exec .ret s = .next t) :
    (∃ hsp : 0 < s.sp.val, t = s.popPc hsp) ∨ (s.sp.val = 0 ∧ t = s.rewindPc.recordFault .stackUnderflow 0) := by
  rcases Nat.eq_zero_or_pos s.sp.val with h0 | hpos
  · cases (exec_ret_of_empty h0).symm.trans h
    exact .inr ⟨h0, rfl⟩
  · cases (exec_ret_of_pos hpos).symm.trans h
    exact .inl ⟨hpos, rfl⟩

/-- CALL has pushed and jumped, or has faulted on a full stack. -/
theorem exec_call_next {nnn : Addr12} {s t : State} (h : exec (.call nnn) s = .next t) :
    (∃ hsp : s.sp.val < 32, t = (s.push hsp s.pc).setPc (addrOf nnn)) ∨
      (s.sp.val = 32 ∧ t = s.rewindPc.recordFault .stackOverflow 0) := by
  rcases Nat.lt_or_eq_of_le (Nat.lt_succ_iff.1 s.sp.isLt) with hlt | hfull
  · cases (exec_call_of_lt nnn hlt).symm.trans h
    exact .inl ⟨hlt, rfl⟩
  · cases (exec_call_of_full nnn hfull).symm.trans h
    exact .inr ⟨hfull, rfl⟩

/-! ### Memory accesses -/

theorem checkAccess_of_not_inRange (code : FaultCode) {n : Nat} {s : State} (body : State) (h : ¬ AccessInRange s n) :
    checkAccess code n s body = .next (s.rewindPc.recordFault code (max s.i.toNat 0x1000)) := by
  rw [AccessInRange] at h
  exact checkAccess_out_of_range code n s body (by omega) (by rw [memSize]; omega)

/-- An access that answers has run its body, or has faulted. -/
theorem checkAccess_next {code : FaultCode} {n : Nat} {s body t : State} (h : checkAccess code n s body = .next t) :
    (AccessInRange s n ∧ t = body) ∨ (¬ AccessInRange s n ∧ t = s.rewindPc.recordFault code (max s.i.toNat 0x1000)) := by
  by_cases hr : AccessInRange s n
  · rw [checkAccess_in_range code n s body hr, Host.Outcome.next.injEq] at h
    exact .inl ⟨hr, h.symm⟩
  · rw [checkAccess_of_not_inRange code body hr, Host.Outcome.next.injEq] at h
    exact .inr ⟨hr, h.symm⟩

theorem exec_ldBVx_in_range {x : RegIdx} {s : State} (h : AccessInRange s 3) :
    exec (.ldBVx x) s = .next (s.storeBytes 3 (bcdDigit (s.reg x))) :=
  checkAccess_in_range _ _ _ _ h

/-! ### The key wait -/

theorem releasedKeys_eq_nil_iff (s : State) : releasedKeys s = [] ↔ ∀ k, ¬ KeyReleased s k := by
  simp only [List.eq_nil_iff_forall_not_mem, mem_releasedKeys, KeyReleased]

theorem exec_ldVxK_of_nil {x : RegIdx} {s : State} (h : releasedKeys s = []) : exec (.ldVxK x) s = .next s.rewindPc := by
  rw [exec, execLdVxK, h]

theorem exec_ldVxK_of_cons {x : RegIdx} {s : State} {k : KeyIdx} {ks : List KeyIdx} (h : releasedKeys s = k :: ks) :
    exec (.ldVxK x) s = .next (s.countDraw.setReg x (BitVec.ofNat 8 (pickKey (Config.keyDraw s.draws) k ks).val)) := by
  rw [exec, execLdVxK, h]

theorem exec_ldVxK_of_none {x : RegIdx} {s : State} (h : ∀ k, ¬ KeyReleased s k) : exec (.ldVxK x) s = .next s.rewindPc :=
  exec_ldVxK_of_nil ((releasedKeys_eq_nil_iff s).2 h)

/-- FX0A stores the number of a released key, whichever the free value picks (R216). -/
theorem exec_ldVxK_of_released {x : RegIdx} {s : State} (h : ∃ k, KeyReleased s k) :
    ∃ k, KeyReleased s k ∧ exec (.ldVxK x) s = .next (s.countDraw.setReg x (BitVec.ofNat 8 k.val)) := by
  cases hks : releasedKeys s
  case nil =>
    obtain ⟨k, hk⟩ := h
    exact absurd hk ((releasedKeys_eq_nil_iff s).1 hks k)
  case cons k ks =>
    exact ⟨_, (mem_releasedKeys s _).1 (hks ▸ pickKey_mem _ k ks), exec_ldVxK_of_cons hks⟩

/-- FX0A has stored a key, or has gone back to wait. -/
theorem exec_ldVxK_next {x : RegIdx} {s t : State} (h : exec (.ldVxK x) s = .next t) :
    (∃ k : KeyIdx, t = s.countDraw.setReg x (BitVec.ofNat 8 k.val)) ∨ t = s.rewindPc := by
  by_cases hk : ∃ k, KeyReleased s k
  · obtain ⟨k, -, hexec⟩ := exec_ldVxK_of_released (x := x) hk
    cases hexec.symm.trans h
    exact .inl ⟨k, rfl⟩
  · cases (exec_ldVxK_of_none (not_exists.1 hk)).symm.trans h
    exact .inr rfl

end Sys2Proof.Machine
end

section
/-! PROOFS. What each instruction leaves alone (spec 10_state.md R20 to R30, R50; 60_exceptions.md R241): the one frame of an instruction,
read off piece by piece. -/

namespace Sys2Proof.Machine

/-! ### The pieces of a frame -/

theorem Frame.reg_eq {w : Touched} {s t : State} (h : Frame w s t) {r : RegIdx} (hr : r ∉ w.regs) : t.reg r = s.reg r := by
  obtain ⟨hreg, _⟩ := h
  exact hreg r hr

theorem Frame.byteAt_eq {w : Touched} {s t : State} (h : Frame w s t) {a : Nat} (ha : a ∉ w.mem) : t.byteAt a = s.byteAt a := by
  obtain ⟨_, hmem, _⟩ := h
  exact hmem a ha

theorem Frame.i_eq {w : Touched} {s t : State} (h : Frame w s t) (hw : w.i = false) : t.i = s.i := by
  obtain ⟨_, _, hi, _⟩ := h
  exact hi hw

theorem Frame.stack_eq {w : Touched} {s t : State} (h : Frame w s t) (hw : w.stack = false) : t.sp = s.sp ∧ t.stack = s.stack := by
  obtain ⟨_, _, _, _, hstack, _⟩ := h
  exact hstack hw

theorem Frame.pixel_eq {w : Touched} {s t : State} (h : Frame w s t) (hw : w.disp = false) (row : Fin 32) (col : Fin 64) :
    t.pixel row col = s.pixel row col := by
  obtain ⟨_, _, _, _, _, _, _, hpixel, _⟩ := h
  exact hpixel hw row col

/-! ### The frame of an instruction, faulting or not -/

/-- What an instruction may change, a fault's PC and latch included. -/
def touchedOrFault (i : Instr) (s : State) : Touched := { touched i s with pc := true, fault := true }

theorem exec_frame {i : Instr} {s t : State} (h : exec i s = .next t) : Frame (touchedOrFault i s) s t := by
  rcases exec_cases h with ⟨⟨hreg, hmem, hi, -, hstack, hdt, hst, hpixel, hflag, -, hrest⟩, -⟩ | ⟨c, a, -, rfl⟩
  · exact ⟨hreg, hmem, hi, nofun, hstack, hdt, hst, hpixel, hflag, nofun, hrest⟩
  · simp [Frame, touchedOrFault]

theorem touched_disp_eq_false {i : Instr} (hcls : i ≠ .cls) (hdrw : ∀ x y n, i ≠ .drw x y n) (s : State) :
    (touched i s).disp = false := by
  cases i
  case cls => exact absurd rfl hcls
  case drw x y n => exact absurd rfl (hdrw x y n)
  all_goals rfl

theorem touched_i_eq_false {i : Instr} (hld : ∀ nnn, i ≠ .ldI nnn) (hadd : ∀ x, i ≠ .addIVx x) (hglyph : ∀ x, i ≠ .ldFVx x)
    (s : State) : (touched i s).i = false := by
  cases i
  case ldI nnn => exact absurd rfl (hld nnn)
  case addIVx x => exact absurd rfl (hadd x)
  case ldFVx x => exact absurd rfl (hglyph x)
  all_goals rfl

theorem touched_stack_eq_false {i : Instr} (hcall : ∀ nnn, i ≠ .call nnn) (hret : i ≠ .ret) (s : State) :
    (touched i s).stack = false := by
  cases i
  case call nnn => exact absurd rfl (hcall nnn)
  case ret => exact absurd rfl hret
  all_goals rfl

/-- The registers of an instruction's frame are its destinations and, where it writes the flag, VF (R20, R21). -/
theorem not_mem_touched_regs {i : Instr} {r : RegIdx} (hdest : r ∉ destRegs i) (hflag : r = 15 → writesFlag i = false) (s : State) :
    r ∉ (touched i s).regs := by
  have hvf : writesFlag i = true → r ≠ 15 := fun hw hr => by simp [hflag hr] at hw
  cases i
  all_goals simp_all [touched, destRegs, writesFlag]

theorem not_mem_touched_mem {i : Instr} {s : State} {a : Nat} (hbcd : ∀ x, i = .ldBVx x → a ∉ [s.ea 0, s.ea 1, s.ea 2])
    (hstore : ∀ x, i = .ldMiVx x → a ∉ (List.range x.val).map s.ea) : a ∉ (touched i s).mem := by
  cases i
  case ldBVx x => exact hbcd x rfl
  case ldMiVx x => exact hstore x rfl
  all_goals exact List.not_mem_nil

/-! ### The stack of RET -/

/-- RET, faulting or not, keeps every slot (R25). -/
theorem exec_ret_stack {s t : State} (h : exec .ret s = .next t) : t.stack = s.stack := by
  rcases exec_ret_next h with ⟨hsp, rfl⟩ | ⟨-, rfl⟩
  · rfl
  · rfl

/-! ### The obligations -/

/-- Settles O50: no other instruction has the display in its frame. -/
theorem onlyClearAndDrawChangeTheDisplay : Obligations.OnlyClearAndDrawChangeTheDisplay := fun _ s _ h hcls hdrw =>
  (exec_frame h).pixel_eq (touched_disp_eq_false hcls hdrw s)

/-- Settles O51: the registers in an instruction's frame are its destinations, and VF where it writes the flag. -/
theorem onlyDestinationsAndTheFlagChange : Obligations.OnlyDestinationsAndTheFlagChange := fun _ s _ _ h hdest hflag =>
  (exec_frame h).reg_eq (not_mem_touched_regs hdest hflag s)

/-- Settles O52: no other instruction has I in its frame. -/
theorem onlyThreeInstructionsChangeI : Obligations.OnlyThreeInstructionsChangeI := fun _ s _ h hld hadd hglyph =>
  (exec_frame h).i_eq (touched_i_eq_false hld hadd hglyph s)

/-- Settles O53: CALL and RET alone have the stack in their frame, and RET writes no slot. -/
theorem onlyCallAndReturnTouchTheStack : Obligations.OnlyCallAndReturnTouchTheStack := by
  intro i s t h hcall
  by_cases hret : i = .ret
  · subst hret
    exact ⟨exec_ret_stack h, fun hne => absurd rfl hne⟩
  · obtain ⟨hsp, hstack⟩ := (exec_frame h).stack_eq (touched_stack_eq_false hcall hret s)
    exact ⟨hstack, fun _ => hsp⟩

/-- Settles O54: the two stores alone have memory in their frame, at the addresses they store to. -/
theorem onlyStoresChangeMemory : Obligations.OnlyStoresChangeMemory := fun _ _ _ _ h hbcd hstore =>
  (exec_frame h).byteAt_eq (not_mem_touched_mem hbcd hstore)

/-- Settles O55: an instruction that changes the latch has raised a fault, and the table of faults is `Raises`. -/
theorem onlyTheTabledFaultsAreRaised : Obligations.OnlyTheTabledFaultsAreRaised := by
  intro i s t h hchanged
  rcases exec_cases h with ⟨-, hsame⟩ | ⟨c, a, hraises, rfl⟩
  · exact absurd hsame hchanged
  · cases hraises
    case ret hsp => exact .inl ⟨rfl, hsp, rfl⟩
    case call nnn hsp => exact .inr (.inl ⟨nnn, rfl, hsp, rfl⟩)
    case drw x y n hout => exact .inr (.inr (.inl ⟨x, y, n, rfl, hout, rfl⟩))
    case ldVxMi x hout => exact .inr (.inr (.inr (.inl ⟨x, rfl, hout, rfl⟩)))
    case ldBVx x hout => exact .inr (.inr (.inr (.inr (.inl ⟨x, rfl, hout, rfl⟩))))
    case ldMiVx x hout => exact .inr (.inr (.inr (.inr (.inr ⟨x, rfl, hout, rfl⟩))))

end Sys2Proof.Machine
end

section
/-! PROOFS. The cycle (spec 40_cycle.md R100 to R109, 60_exceptions.md R246 to R248): what a step executes, what a faulting cycle leaves,
and what happens to the keys. -/

namespace Sys2Proof.Machine

/-! ### A fetch in range -/

@[simp] theorem State.beginCycle_wordAt (s : State) (a : Nat) : s.beginCycle.wordAt a = s.wordAt a := by
  simp [State.wordAt]

/-- A running core whose PC is in range executes the word there (R101 to R108). -/
theorem stepExecutes_of_fetch {s : State} (hrun : s.running) (hpc : s.pc.toNat ≤ 0xFFE) :
    StepExecutes s (decode (s.wordAt s.pc.toNat)) := by
  rw [StepExecutes, step_fetched s hrun hpc, executeAt, State.beginCycle_pc, State.beginCycle_wordAt]
  cases exec (decode (s.wordAt s.pc.toNat)) s.beginCycle.advancePc <;> rfl

/-- A step whose instruction completes ends the cycle there. -/
theorem StepExecutes.completes {s u : State} {i : Instr} (h : StepExecutes s i) (hexec : exec i s.beginCycle.advancePc = .next u)
    (hu : u.fault.code = .none) : step s = .next u.endCycle := by
  rw [h, hexec]
  exact congrArg Host.Outcome.next (if_pos hu)

theorem State.rewindPc_advancePc (s : State) : s.advancePc.rewindPc = s := by
  simp [State.rewindPc, State.advancePc, State.setPc]

/-! ### A faulting cycle -/

/-- A cycle that faults, at the fetch or in Execute, leaves the begun cycle with the record alone (R246). -/
theorem step_faulted {s t : State} (h : step s = .next t) (ht : t.fault.code ≠ .none) :
    ∃ c a, t = s.beginCycle.recordFault c a := by
  obtain ⟨hs, ⟨-, rfl⟩ | ⟨-, u, hexec, hend⟩⟩ := step_next_cases h
  · exact ⟨_, _, rfl⟩
  · rcases hend with ⟨hu, rfl⟩ | ⟨-, rfl⟩
    · exact absurd hu (by simpa using ht)
    · rcases exec_cases hexec with ⟨-, hsame⟩ | ⟨c, a, -, rfl⟩
      · exact absurd (by rw [hsame]; simpa using hs) ht
      · exact ⟨c, a, by rw [State.rewindPc_advancePc]⟩

theorem frame_recordFault_in_place (code : FaultCode) (addr : Nat) (s : State) :
    Frame { fault := true } s (s.recordFault code addr) := by
  simp [Frame]

theorem step_of_running (s : State) (h : s.running) : ∃ t, step s = .next t := by
  by_cases hpc : s.pc.toNat ≤ 0xFFE
  · obtain ⟨u, hu⟩ := exec_total (decode (s.wordAt s.pc.toNat)) s.beginCycle.advancePc
    have hstep := stepExecutes_of_fetch h hpc
    rw [StepExecutes, hu] at hstep
    exact ⟨_, hstep⟩
  · exact ⟨_, step_fetch_fault s h (by omega)⟩

/-! ### The keys in a cycle -/

/-- A step leaves the keys and the host's samples as they are once the cycle has begun (R31, R44). -/
theorem step_keys {s t : State} (h : step s = .next t) : t.keys = s.beginCycle.keys ∧ t.keyInputs = s.beginCycle.keyInputs := by
  by_cases ht : t.fault.code = .none
  · obtain ⟨u, hexec, rfl⟩ := step_running h ht
    obtain ⟨hkeys, -, -, hinputs⟩ := exec_keys hexec
    simpa using And.intro hkeys hinputs
  · obtain ⟨c, a, rfl⟩ := step_faulted h ht
    exact ⟨rfl, rfl⟩

/-! ### Beginning and ending a cycle -/

theorem samplesKeys_beginCycle (s : State) : SamplesKeys s s.beginCycle := by
  cases hk : s.keyInputs
  case nil => simp [SamplesKeys, State.beginCycle, State.sampleKeys, hk]
  case cons k ks => simp [SamplesKeys, State.beginCycle, State.sampleKeys, hk]

theorem ticksAndLatches_endCycle (u : State) : TicksAndLatches u u.endCycle := by
  refine ⟨?_, u.endCycle_dt_toNat, u.endCycle_st_toNat, u.endCycle_beep⟩
  simp only [State.endCycle, State.tickDelay, State.tickSound]
  split
  · split <;> rfl
  · split <;> rfl

/-! ### The obligations -/

/-- Settles O36: the fetched bytes make up the word at PC, which the cycle executes between its beginning and its end. -/
theorem stepRunsTheDecodedInstruction : Obligations.StepRunsTheDecodedInstruction := by
  refine ⟨fun s i hrun hpc hbytes => ⟨?_, ?_⟩, samplesKeys_beginCycle, ticksAndLatches_endCycle⟩
  · rw [State.advancePc, State.setPc, State.beginCycle_pc]
  · obtain rfl : decode (s.wordAt s.pc.toNat) = i := by simpa [decodeBytes, State.wordAt] using hbytes
    exact stepExecutes_of_fetch hrun hpc

/-- Settles O37: the cycle has only begun when the fetch faults. -/
theorem fetchOutOfRangeIsRecorded : Obligations.FetchOutOfRangeIsRecorded := by
  intro s hrun hpc
  refine ⟨_, step_fetch_fault s hrun hpc, rfl, by simp, ?_, frame_recordFault_in_place _ _ _⟩
  have := s.pc.isLt
  simp only [State.recordFault_fault, BitVec.toNat_ofNat]
  omega

/-- Settles O38: the step tests FaultCode first. -/
theorem stoppedCoreTakesNoCycle : Obligations.StoppedCoreTakesNoCycle := step_stopped

/-- Settles O39: a stopped core has no next state, a running one has one, and a fault leaves PC where it was. -/
theorem cycleHasThreeOutcomes : Obligations.CycleHasThreeOutcomes := by
  intro s
  by_cases hs : s.running
  · obtain ⟨t, ht⟩ := step_of_running s hs
    refine .inr ⟨hs, t, ht, ?_⟩
    by_cases hrun : t.running
    · exact .inl hrun
    · obtain ⟨c, a, rfl⟩ := step_faulted ht hrun
      exact .inr ⟨hrun, by simp⟩
  · refine .inl ⟨hs, fun t ht => ?_⟩
    rw [step_stopped s hs] at ht
    cases ht

/-- Settles O40: a faulting cycle is the begun one with the record, and only a running core begins one. -/
theorem faultingCycleWritesOnlyTheLatch : Obligations.FaultingCycleWritesOnlyTheLatch := by
  intro s t h ht
  obtain ⟨hrun, -⟩ := step_next_cases h
  obtain ⟨c, a, rfl⟩ := step_faulted h ht
  exact ⟨by simp, by simp, frame_recordFault_in_place c a _, hrun⟩

/-- Settles O43: a completed cycle ends with the latch of the keys, a faulting one has only begun. -/
theorem keysAreLatchedByCompletedCycles : Obligations.KeysAreLatchedByCompletedCycles := by
  refine fun s t h => ⟨fun hrun => ?_, fun hrun => ?_⟩
  · obtain ⟨u, -, rfl⟩ := step_running h hrun
    simp
  · obtain ⟨c, a, rfl⟩ := step_faulted h hrun
    simp

/-- Settles O44: Execute leaves the keys, so a step leaves the sample its cycle began with. -/
theorem coreNeverWritesKeys : Obligations.CoreNeverWritesKeys := by
  refine ⟨fun i s t h => (exec_keys h).1, fun s t h => ?_⟩
  obtain ⟨-, hsilent, hsample⟩ := samplesKeys_beginCycle s
  rw [(step_keys h).1, (step_keys h).2]
  exact ⟨hsilent, hsample⟩

end Sys2Proof.Machine
end

section
/-! PROOFS. Control transfers (spec 41_control_flow.md R120 to R122, R128): jumps, the fetch at their target, and the call stack. -/

namespace Sys2Proof.Machine

/-! ### Jumps -/

theorem frame_setPc (w : Word) (s : State) : Frame { pc := true } s (s.setPc w) := by
  simp [Frame]

/-- The cycle after a jump out of range faults at the fetch (R101). -/
theorem step_of_pc_out_of_range {u : State} (hrun : u.running) (hpc : 0xFFE < u.pc.toNat) :
    ∃ w, step u = .next w ∧ w.fault.code = .fetchFault :=
  ⟨_, step_fetch_fault u hrun hpc, rfl⟩

/-- A jump to its own address is a completed cycle that changes no memory and comes back to the same PC. -/
theorem step_self_jump {s : State} {nnn : Addr12} (hrun : s.running) (hpc : s.pc.toNat ≤ 0xFFE) (htarget : nnn.toNat = s.pc.toNat)
    (hdec : decode (s.wordAt s.pc.toNat) = .jp nnn) : ∃ t, step s = .next t ∧ t.running ∧ t.pc = s.pc ∧
      t.wordAt t.pc.toNat = s.wordAt s.pc.toNat ∧ t.dt.toNat = s.dt.toNat - 1 ∧ t.st.toNat = s.st.toNat - 1 := by
  have hback : addrOf nnn = s.pc := BitVec.eq_of_toNat_eq ((addrOf_toNat nnn).trans htarget)
  have hcode : s.fault.code = .none := hrun
  refine ⟨_, (hdec ▸ stepExecutes_of_fetch hrun hpc).completes (exec_jp nnn _) (by simpa using hcode), ?_⟩
  simp [State.running, hback, hcode, State.wordAt, State.endCycle_dt_toNat, State.endCycle_st_toNat]

/-! ### The call stack -/

theorem State.push_stack_get (s : State) (h : s.sp.val < 32) (w : Word) (k : Fin 32) :
    (s.push h w).stack[k] = if k.val = s.sp.val then w else s.stack[k] := by
  simp [State.push, Vector.getElem_set, eq_comm]

/-- RET pops the slot below SP (R120). -/
theorem State.popPc_pc_eq_slot {s : State} (h : 0 < s.sp.val) {k : Fin 32} (hk : k.val + 1 = s.sp.val) :
    (s.popPc h).pc = s.stack[k] := by
  rw [State.popPc_pc]
  exact getElem_congr_idx (by omega)

/-! ### The obligations -/

/-- Settles O7: JP is the write of PC; the next cycle fetches there, or faults, and a jump to itself completes where it began. -/
theorem jumpSetsPc : Obligations.JumpSetsPc := by
  intro nnn s
  refine ⟨decode_encode (i := .jp nnn) rfl, ⟨_, exec_jp nnn s, addrOf_toNat nnn, frame_setPc _ s, ?_, ?_⟩, step_self_jump⟩
  · intro hin u hrun hpc
    have hu : u.pc.toNat = nnn.toNat := hpc ▸ addrOf_toNat nnn
    exact hu ▸ stepExecutes_of_fetch hrun (hu ▸ hin)
  · intro hout u hrun hpc
    exact step_of_pc_out_of_range hrun (hpc ▸ (addrOf_toNat nnn).symm ▸ hout)

/-- Settles O8: CALL below the limit is the push of PC and the jump. -/
theorem callPushesReturnAddress : Obligations.CallPushesReturnAddress := by
  intro nnn s hsp
  refine ⟨_, exec_call_of_lt nnn hsp, addrOf_toNat nnn, rfl, s.push_stack_get hsp s.pc, ?_⟩
  simp [Frame]

/-- Settles O9: RET above an empty stack is the pop. -/
theorem returnPopsPc : Obligations.ReturnPopsPc := by
  intro s hsp
  have hfalls : (s.popPc hsp).sp.val + 1 = s.sp.val := Nat.sub_add_cancel hsp
  exact ⟨_, exec_ret_of_pos hsp, hfalls, fun k hk => State.popPc_pc_eq_slot hsp (hk ▸ hfalls), rfl, by simp [Frame]⟩

/-- Settles O10: the slot that RET pops is the one CALL wrote. -/
theorem callThenReturnComesBack : Obligations.CallThenReturnComesBack := by
  intro nnn s hsp
  refine ⟨_, exec_call_of_lt nnn hsp, fun u hu hstack => ?_⟩
  have husp : u.sp.val = s.sp.val + 1 := congrArg Fin.val hu
  have hslot : u.stack[(⟨s.sp.val, hsp⟩ : Fin 32)] = s.pc := by
    rw [hstack, State.setPc_stack, s.push_stack_get, if_pos rfl]
  have hpos : 0 < u.sp.val := by omega
  refine ⟨_, exec_ret_of_pos hpos, ?_, Fin.ext (by simp [husp])⟩
  rw [State.popPc_pc_eq_slot hpos (k := ⟨s.sp.val, hsp⟩) husp.symm, hslot]

/-- Settles O12: BNNN is the write of PC with the sum, which the next fetch takes as it stands. -/
theorem jumpPlusV0 : Obligations.JumpPlusV0 := by
  intro nnn s
  refine ⟨decode_encode (i := .jpV0 nnn) rfl, _, exec_jpV0 nnn s, jumpOffsetTarget_toNat nnn _, frame_setPc _ s, ?_⟩
  intro hout u hrun hpc
  exact step_of_pc_out_of_range hrun (hpc ▸ (jumpOffsetTarget_toNat nnn (s.reg 0)).symm ▸ hout)

/-- Settles O13: at the two ends of the stack RET and CALL record their fault with address 0. -/
theorem stackFaultsAreRecorded : Obligations.StackFaultsAreRecorded := fun nnn s =>
  ⟨fun h => ⟨_, exec_ret_of_empty h, recordFault_faulted _ _ s (by decide)⟩,
    fun h => ⟨_, exec_call_of_full nnn h, recordFault_faulted _ _ s (by decide)⟩⟩

end Sys2Proof.Machine
end

section
/-! PROOFS. The invariant (spec 41_control_flow.md R137, 20_memory.md R29, 60_exceptions.md R241, R247): reset and every load meet it, every
step keeps it. Within a cycle it is the facts of `MidCycle`, which Execute starts from. -/

namespace Sys2Proof.Machine

/-- Where Execute starts in a running core that meets the invariant: PC is two past an address whose fetch was in range. -/
structure MidCycle (s : State) : Prop where
  mem : Memory.wf s.mem
  pc_ge : 2 ≤ s.pc.toNat
  pc_le : s.pc.toNat ≤ 0x1000
  stack : ∀ k : Fin 32, s.stack[k].toNat ≤ 0x1000
  fault : s.fault.code = .none

theorem latchLegal_of_none {l : FaultLatch} (h : l.code = .none) (pc : Word) : latchLegal l pc := by
  rw [latchLegal, h]
  trivial

theorem Invariant.midCycle {s : State} (h : Invariant s) (hrun : s.fault.code = .none) (hpc : s.pc.toNat ≤ 0xFFE) :
    MidCycle s.beginCycle.advancePc := by
  obtain ⟨hmem, -, hstack, -⟩ := h
  have hadd : s.beginCycle.advancePc.pc.toNat = s.pc.toNat + 2 := by
    rw [State.advancePc_pc, State.beginCycle_pc]
    bv_omega
  exact ⟨by simpa using hmem, by omega, by omega, by simpa using hstack, by simpa using hrun⟩

/-! ### Memory -/

@[simp] theorem State.skipIf_mem (s : State) (c : Bool) : (s.skipIf c).mem = s.mem := by
  rw [State.skipIf_eq, State.setPc_mem]

/-- An access that stores leaves memory as it is when it faults. -/
theorem storeAccess_mem {n : Nat} {f : Nat → Byte} {s t : State}
    (h : checkAccess .writeFault n s (s.storeBytes n f) = .next t) : t.mem = s.mem ∨ ∃ n f, t.mem = (s.storeBytes n f).mem := by
  rcases checkAccess_next h with ⟨-, rfl⟩ | ⟨-, rfl⟩
  · exact .inr ⟨n, f, rfl⟩
  · exact .inl rfl

/-- An access that reads leaves memory as its body does, which is as it was. -/
theorem readAccess_mem {n : Nat} {s body t : State} (h : checkAccess .readFault n s body = .next t) (hbody : body.mem = s.mem) :
    t.mem = s.mem := by
  rcases checkAccess_next h with ⟨-, rfl⟩ | ⟨-, rfl⟩
  · exact hbody
  · rfl

/-- An instruction leaves memory as it is, or stores some bytes from I on. -/
theorem exec_mem {i : Instr} {s t : State} (h : exec i s = .next t) : t.mem = s.mem ∨ ∃ n f, t.mem = (s.storeBytes n f).mem := by
  cases i
  case ldBVx x => exact storeAccess_mem h
  case ldMiVx x => exact storeAccess_mem h
  case ldVxMi x => exact .inl (readAccess_mem h (s.loadRegs_mem _))
  case drw x y n => exact .inl (readAccess_mem h (s.putDrawing_mem _))
  case ret => rcases exec_ret_next h with ⟨hsp, rfl⟩ | ⟨-, rfl⟩ <;> exact .inl rfl
  case call nnn => rcases exec_call_next h with ⟨hsp, rfl⟩ | ⟨-, rfl⟩ <;> exact .inl rfl
  case ldVxK x => rcases exec_ldVxK_next h with ⟨k, rfl⟩ | rfl <;> exact .inl rfl
  -- The others answer one update, of a field that is not memory.
  all_goals
    cases h
    simp

theorem exec_keeps_wf {i : Instr} {s t : State} (h : exec i s = .next t) (hs : Memory.wf s.mem) : Memory.wf t.mem := by
  rcases exec_mem h with he | ⟨n, f, he⟩
  · rwa [he]
  · rw [he]
    exact s.storeBytes_wf n f hs

/-! ### PC -/

theorem Frame.pc_eq {w : Touched} {s t : State} (h : Frame w s t) (hw : w.pc = false) : t.pc = s.pc := by
  obtain ⟨_, _, _, hpc, _⟩ := h
  exact hpc hw

/-- FX0A's rewind and a fault go back to the instruction. -/
theorem MidCycle.rewindPc_le {s : State} (h : MidCycle s) : s.rewindPc.pc.toNat ≤ 0x1000 := by
  have hge := h.pc_ge
  have hle := h.pc_le
  rw [State.rewindPc_pc]
  bv_omega

theorem MidCycle.skipIf_le {s : State} (h : MidCycle s) (c : Bool) : (s.skipIf c).pc.toNat ≤ 0x1002 := by
  have hle := h.pc_le
  rw [State.skipIf_eq, State.setPc_pc]
  split <;> bv_omega

/-- A popped slot holds an address that CALL pushed (R25, R35). -/
theorem MidCycle.popPc_le {s : State} (h : MidCycle s) (hsp : 0 < s.sp.val) : (s.popPc hsp).pc.toNat ≤ 0x1000 := by
  have hlt := s.sp.isLt
  rw [State.popPc_pc_eq_slot hsp (k := ⟨s.sp.val - 1, by omega⟩) (by simp; omega)]
  exact h.stack _

/-- The target of a jump, at most 0xFFF plus a byte (R128, R137). -/
theorem toNat_jumpOffsetTarget_le (nnn : Addr12) (b : Byte) : (jumpOffsetTarget nnn b).toNat ≤ 0x10FE := by
  rw [jumpOffsetTarget_toNat]
  omega

theorem toNat_addrOf_le (nnn : Addr12) : (addrOf nnn).toNat ≤ 0xFFF := by
  rw [addrOf_toNat]
  omega

theorem exec_ret_pc_le {s t : State} (hs : MidCycle s) (h : exec .ret s = .next t) : t.pc.toNat ≤ 0x1000 := by
  rcases exec_ret_next h with ⟨hsp, rfl⟩ | ⟨-, rfl⟩
  · exact hs.popPc_le hsp
  · exact hs.rewindPc_le

theorem exec_call_pc_le {nnn : Addr12} {s t : State} (hs : MidCycle s) (h : exec (.call nnn) s = .next t) : t.pc.toNat ≤ 0x1000 := by
  rcases exec_call_next h with ⟨hsp, rfl⟩ | ⟨-, rfl⟩
  · exact (toNat_addrOf_le nnn).trans (by decide)
  · exact hs.rewindPc_le

theorem exec_ldVxK_pc_le {x : RegIdx} {s t : State} (hs : MidCycle s) (h : exec (.ldVxK x) s = .next t) : t.pc.toNat ≤ 0x1000 := by
  rcases exec_ldVxK_next h with ⟨k, rfl⟩ | rfl
  · exact hs.pc_le
  · exact hs.rewindPc_le

/-- The highest PC an instruction leaves is that of BNNN (R137). -/
theorem exec_pc_le {i : Instr} {s t : State} (hs : MidCycle s) (h : exec i s = .next t) : t.pc.toNat ≤ 0x10FE := by
  rcases exec_cases h with ⟨hf, -⟩ | ⟨c, a, -, rfl⟩
  · cases i
    case ret => exact (exec_ret_pc_le hs h).trans (by decide)
    case call nnn => exact (exec_call_pc_le hs h).trans (by decide)
    case ldVxK x => exact (exec_ldVxK_pc_le hs h).trans (by decide)
    case jp nnn => cases h; exact (toNat_addrOf_le nnn).trans (by decide)
    case jpV0 nnn => cases h; exact toNat_jumpOffsetTarget_le nnn _
    case seImm => cases h; exact (hs.skipIf_le _).trans (by decide)
    case sneImm => cases h; exact (hs.skipIf_le _).trans (by decide)
    case seReg => cases h; exact (hs.skipIf_le _).trans (by decide)
    case sneReg => cases h; exact (hs.skipIf_le _).trans (by decide)
    case skp => cases h; exact (hs.skipIf_le _).trans (by decide)
    case sknp => cases h; exact (hs.skipIf_le _).trans (by decide)
    -- Every other instruction leaves PC where the advance put it.
    all_goals
      rw [hf.pc_eq rfl]
      exact hs.pc_le.trans (by decide)
  · exact hs.rewindPc_le.trans (by decide)

/-! ### The stack -/

theorem exec_stack_le {i : Instr} {s t : State} (hs : MidCycle s) (h : exec i s = .next t) (k : Fin 32) : t.stack[k].toNat ≤ 0x1000 := by
  by_cases hcall : ∃ nnn, i = .call nnn
  · obtain ⟨nnn, rfl⟩ := hcall
    rcases exec_call_next h with ⟨hsp, rfl⟩ | ⟨-, rfl⟩
    · rw [State.setPc_stack, s.push_stack_get hsp]
      split
      · exact hs.pc_le
      · exact hs.stack k
    · exact hs.stack k
  · obtain ⟨hstack, -⟩ := onlyCallAndReturnTouchTheStack i s t h (not_exists.1 hcall)
    rw [hstack]
    exact hs.stack k

/-! ### The latch -/

theorem exec_latchLegal {i : Instr} {s t : State} (hs : MidCycle s) (h : exec i s = .next t) : latchLegal t.fault t.pc := by
  rcases exec_cases h with ⟨-, hsame⟩ | ⟨c, a, hraises, rfl⟩
  · exact latchLegal_of_none (hsame ▸ hs.fault) _
  · exact hraises.legal _

/-! ### The invariant -/

theorem exec_invariant {i : Instr} {s t : State} (hs : MidCycle s) (h : exec i s = .next t) : Invariant t :=
  ⟨exec_keeps_wf h hs.mem, exec_pc_le hs h, exec_stack_le hs h, exec_latchLegal hs h⟩

theorem Invariant.endCycle {u : State} (h : Invariant u) : Invariant u.endCycle := by
  simpa [Invariant] using h

/-- A fetch out of range records an address between 0x1000 and the highest PC (R137, R245). -/
theorem Invariant.fetchFault {s : State} (h : Invariant s) :
    Invariant (s.beginCycle.recordFault .fetchFault (max s.pc.toNat 0x1000)) := by
  obtain ⟨hmem, hpc, hstack, -⟩ := h
  refine ⟨by simpa using hmem, by simpa using hpc, by simpa using hstack, ?_⟩
  simp only [latchLegal, State.recordFault_fault, State.recordFault_pc, BitVec.toNat_ofNat, true_and]
  omega

/-- Settles O47: Execute starts from `MidCycle` and leaves the invariant, which the end of the cycle keeps; so does a fault of the fetch. -/
theorem everyStepKeepsTheInvariant : Obligations.EveryStepKeepsTheInvariant := by
  intro s t hs h
  obtain ⟨hrun, ⟨-, rfl⟩ | ⟨hpc, u, hexec, hend⟩⟩ := step_next_cases h
  · exact hs.fetchFault
  · have hu : Invariant u := exec_invariant (hs.midCycle hrun hpc) hexec
    rcases hend with ⟨-, rfl⟩ | ⟨-, rfl⟩
    · exact hu.endCycle
    · exact hu

/-- Settles O46: memory, stack and latch are empty at reset, and PC is 0x200. -/
theorem resetMeetsTheInvariant : Obligations.ResetMeetsTheInvariant := by
  refine ⟨Memory.wf_nil, by decide, fun k => ?_, trivial⟩
  simp [State.reset]

theorem Invariant.placeWord {s : State} (h : Invariant s) (a : Nat) (bs : List Byte) : Invariant (s.placeWord a bs) := by
  obtain ⟨hmem, hpc, hstack, hlatch⟩ := h
  exact ⟨s.placeWord_wf a bs hmem, by simpa using hpc, by simpa using hstack, by simpa using hlatch⟩

/-- The host loads no image but one that it places (R272, R273). -/
theorem hostLoadImage_next {image : List Byte} {s t : State} (h : hostLoadImage image s = .next t) : t = s.placeWord programBase image := by
  rw [hostLoadImage] at h
  split at h <;> cases h
  rfl

/-- Every state reached from one that meets the invariant meets it: the host's keys are no part of it. -/
theorem Invariant.of_reaches {s t : State} (hs : Invariant s) (h : Reaches s t) : Invariant t := by
  induction h with
  | refl => exact hs
  | cycle _ hstep ih => exact everyStepKeepsTheInvariant _ _ ih hstep
  | writeKeys _ _ ih => exact ih
  | supplyKeys _ _ ih => exact ih

/-- Settles O48: the loaded reset meets the invariant, and so does every state reached from it. -/
theorem everyReachableStateMeetsTheInvariant : Obligations.EveryReachableStateMeetsTheInvariant := by
  intro image s t hload hreach
  obtain rfl := hostLoadImage_next hload
  exact (resetMeetsTheInvariant.placeWord programBase image).of_reaches hreach

end Sys2Proof.Machine
end

section
/-! PROOFS. Register and ALU instructions (spec 42_alu.md R143 to R152): one register written, or a result and the flag. -/

namespace Sys2Proof.Machine

/-! ### Result and flag -/

theorem writeResultAndFlag_reg_flag (x : RegIdx) (b : Byte) (f : Bool) (s : State) :
    (writeResultAndFlag x b f s).reg 15 = flagByte f := by
  rw [writeResultAndFlag_reg, if_pos rfl]

theorem writeResultAndFlag_reg_result {x : RegIdx} (hx : x ≠ 15) (b : Byte) (f : Bool) (s : State) :
    (writeResultAndFlag x b f s).reg x = b := by
  rw [writeResultAndFlag_reg, if_neg hx, if_pos rfl]

theorem flagByte_decide (c : Prop) [Decidable c] : flagByte (decide c) = if c then 1 else 0 := by
  simp [flagByte]

theorem flagByte_shrOut_toNat (a : Byte) : (flagByte (shrOut a)).toNat = a.toNat % 2 := by
  rw [shrOut_eq, flagByte_decide]
  split <;> simp <;> omega

theorem flagByte_shlOut_toNat (a : Byte) : (flagByte (shlOut a)).toNat = a.toNat / 128 := by
  have := a.isLt
  rw [shlOut_eq, flagByte_decide]
  split <;> simp <;> omega

/-! ### The obligations -/

/-- Settles O16: each is the write of VX with its own value. -/
theorem copyAndLogicWriteOnlyVx : Obligations.CopyAndLogicWriteOnlyVx := fun x y s =>
  ⟨⟨_, exec_ldReg x y s, s.setReg_reg_same x _, frame_setReg x _ s⟩,
    ⟨_, exec_or x y s, s.setReg_reg_same x _, frame_setReg x _ s⟩,
    ⟨_, exec_and x y s, s.setReg_reg_same x _, frame_setReg x _ s⟩,
    ⟨_, exec_xor x y s, s.setReg_reg_same x _, frame_setReg x _ s⟩⟩

/-- Settles O17: the exact sum narrowed, with its carry as the flag. -/
theorem addSetsCarry : Obligations.AddSetsCarry := by
  intro x y s
  refine ⟨_, exec_addReg x y s, fun hx => ?_, ?_, frame_writeResultAndFlag x _ _ s⟩
  · rw [writeResultAndFlag_reg_result hx, addResult_toNat]
  · rw [writeResultAndFlag_reg_flag, addCarry, flagByte_decide]

/-- Settles O18: the exact difference narrowed, with not-borrow as the flag, in both orders of the operands. -/
theorem subtractSetsNotBorrow : Obligations.SubtractSetsNotBorrow := by
  intro x y s
  refine ⟨⟨_, exec_sub x y s, fun hx => ?_, ?_, frame_writeResultAndFlag x _ _ s⟩,
    ⟨_, exec_subn x y s, fun hx => ?_, ?_, frame_writeResultAndFlag x _ _ s⟩⟩
  · rw [writeResultAndFlag_reg_result hx, subResult_toNat]
  · rw [writeResultAndFlag_reg_flag, subNoBorrow, flagByte_decide]
  · rw [writeResultAndFlag_reg_result hx, subResult_toNat]
  · rw [writeResultAndFlag_reg_flag, subNoBorrow, flagByte_decide]

/-- Settles O19: both shifts take VX, and the flag is the bit shifted out. -/
theorem shiftsSetTheBitShiftedOut : Obligations.ShiftsSetTheBitShiftedOut := by
  intro x y s
  refine ⟨⟨_, exec_shr x y s, fun hx => ?_, ?_, frame_writeResultAndFlag x _ _ s⟩,
    ⟨_, exec_shl x y s, fun hx => ?_, ?_, frame_writeResultAndFlag x _ _ s⟩⟩
  · rw [writeResultAndFlag_reg_result hx, shrResult_toNat]
  · rw [writeResultAndFlag_reg_flag, flagByte_shrOut_toNat]
  · rw [writeResultAndFlag_reg_result hx, shlResult_toNat]
  · rw [writeResultAndFlag_reg_flag, flagByte_shlOut_toNat]

/-- Settles O20: the drawn byte is masked and written, and the draw is counted. -/
theorem randomByteIsMasked : Obligations.RandomByteIsMasked := by
  intro x nn s
  refine ⟨_, exec_rnd x nn s, State.setReg_reg_same _ x _, fun hnn => ?_, rfl, by simp +contextual [Frame]⟩
  rw [State.setReg_reg_same, hnn]
  exact BitVec.and_zero

end Sys2Proof.Machine
end

section
/-! PROOFS. The index register and memory (spec 43_index_memory.md R170 to R177, 20_memory.md R63): I, the digits, the register stores and
loads in range, the fault out of range, and the fetch of stored bytes. -/

namespace Sys2Proof.Machine

/-! ### I -/

theorem frame_setI (w : Word) (s : State) : Frame { i := true } s (s.setI w) := by
  simp [Frame]

theorem toNat_add_wide (w : Word) (b : Byte) : (w + wide b).toNat = (w.toNat + b.toNat) % 65536 := by
  rw [BitVec.toNat_add, wide_toNat]

/-! ### The bytes stored -/

theorem bcdDigit_toNat (b : Byte) : (bcdDigit b 0).toNat = b.toNat / 100 ∧ (bcdDigit b 1).toNat = b.toNat / 10 % 10 ∧
    (bcdDigit b 2).toNat = b.toNat % 10 := by
  have := b.isLt
  simp only [bcdDigit, BitVec.toNat_ofNat]
  omega

theorem decimalDigits_getElem (b : Byte) (k : Nat) (hk : k < (decimalDigits b).length) : bcdDigit b k = (decimalDigits b)[k] := by
  match k, hk with
  | 0, _ => rfl
  | 1, _ => rfl
  | 2, _ => rfl

theorem firstRegs_length (s : State) {n : Nat} (hn : n ≤ 16) : (firstRegs s n).length = n := by
  simp [firstRegs, hn]

theorem firstRegs_getElem (s : State) (n k : Nat) (hk : k < (firstRegs s n).length) :
    s.reg (Fin.ofNat 16 k) = (firstRegs s n)[k] := by
  simp only [firstRegs, List.length_map, List.length_take, List.length_finRange] at hk
  simp only [firstRegs, List.getElem_map, List.getElem_take, List.getElem_finRange]
  congr 1
  exact Fin.ext (Nat.mod_eq_of_lt (by omega))

/-! ### The fetch of stored bytes -/

/-- A running core whose memory is as a store left it executes the word of stored and older bytes at its PC. -/
theorem stepExecutes_after_store {s t u : State} {bytes : List Byte} (ht : ∀ a, t.byteAt a = byteAfterStore s bytes a)
    (hrun : u.running) (hpc : u.pc.toNat ≤ 0xFFE) (hmem : ∀ a, u.byteAt a = t.byteAt a) :
    StepExecutes u (decode (wordAfterStore s bytes u.pc.toNat)) := by
  have hword : u.wordAt u.pc.toNat = wordAfterStore s bytes u.pc.toNat := by
    simp only [State.wordAt, wordAfterStore, hmem, ht]
  exact hword ▸ stepExecutes_of_fetch hrun hpc

/-! ### The obligations -/

/-- Settles O21: both are the write of I, of which an out-of-range value is no fault. -/
theorem indexIsSetAndAdvanced : Obligations.IndexIsSetAndAdvanced := fun x nnn s =>
  ⟨⟨decode_encode (i := .ldI nnn) rfl, _, exec_ldI nnn s, addrOf_toNat nnn, frame_setI _ s⟩,
    decode_encode (i := .addIVx x) rfl, _, exec_addIVx x s, toNat_add_wide _ _, frame_setI _ s⟩

/-- Settles O22: FX29 is the write of I with the glyph address of all of VX. -/
theorem glyphAddressIsFiveTimesTheValue : Obligations.GlyphAddressIsFiveTimesTheValue := fun x s =>
  ⟨_, exec_ldFVx x s, glyphAddr_toNat _, frame_setI _ s⟩

/-- Settles O23: FX33 in range is the store of the three digits. -/
theorem decimalDigitsAreStored : Obligations.DecimalDigitsAreStored := by
  intro x s hr
  obtain ⟨hhundreds, htens, hunits⟩ := bcdDigit_toNat (s.reg x)
  refine ⟨_, exec_ldBVx_in_range hr, ?_, ?_, ?_, frame_storeBytes s 3 _ hr⟩
  · rw [s.storeBytes_byteAt_ea_of_lt _ hr (by decide), hhundreds]
  · rw [s.storeBytes_byteAt_ea_of_lt _ hr (by decide), htens]
  · rw [s.storeBytes_byteAt_ea_of_lt _ hr (by decide), hunits]

/-- Settles O24: FX55 in range is the store of the registers below X. -/
theorem registersAreStoredExclusive : Obligations.RegistersAreStoredExclusive := by
  intro x s hr
  refine ⟨_, exec_ldMiVx_in_range hr, fun k hk => ?_, frame_storeBytes s _ _ hr⟩
  rw [s.storeBytes_byteAt_ea_of_lt _ hr hk, Fin.ofNat_val_eq_self]

/-- Settles O25: FX65 in range is the load of the registers through X. -/
theorem registersAreLoadedInclusive : Obligations.RegistersAreLoadedInclusive := by
  intro x s hr
  refine ⟨_, exec_ldVxMi_in_range hr, fun k hk => ?_, ?_⟩
  · rw [State.loadRegs_reg _ _ (by omega), if_pos (by omega)]
  · simpa only [Nat.lt_succ_iff] using frame_loadRegs s (x.val + 1) (by omega)

/-- Settles O27: each access out of range answers the recorded fault before its body. -/
theorem outOfRangeAccessIsRecorded : Obligations.OutOfRangeAccessIsRecorded := by
  intro x y n s
  have haddr : max s.i.toNat 0x1000 < 2 ^ 17 := by omega
  exact ⟨fun h => ⟨_, checkAccess_of_not_inRange .writeFault _ h, recordFault_faulted _ _ s haddr⟩,
    fun h => ⟨_, checkAccess_of_not_inRange .writeFault _ h, recordFault_faulted _ _ s haddr⟩,
    fun h => ⟨_, checkAccess_of_not_inRange .readFault _ h, recordFault_faulted _ _ s haddr⟩,
    fun h => ⟨_, checkAccess_of_not_inRange .readFault _ h, recordFault_faulted _ _ s haddr⟩⟩

/-- Settles O28: the memory a store leaves is the stored bytes over the older ones, and the fetch reads nothing but memory. -/
theorem fetchSeesStoredBytes : Obligations.FetchSeesStoredBytes := by
  intro x s
  refine ⟨fun hr => ⟨_, exec_ldMiVx_in_range hr, fun u => stepExecutes_after_store fun a => ?_⟩,
    fun hr => ⟨_, exec_ldBVx_in_range hr, fun u => stepExecutes_after_store fun a => ?_⟩⟩
  · have hlen : (firstRegs s x.val).length = x.val := firstRegs_length s (by omega)
    have hstored := s.storeBytes_byteAfterStore (firstRegs s x.val) _ (firstRegs_getElem s x.val) (hlen.symm ▸ hr) a
    rwa [hlen] at hstored
  · exact s.storeBytes_byteAfterStore (decimalDigits (s.reg x)) _ (decimalDigits_getElem _) hr a

end Sys2Proof.Machine
end

section
/-! PROOFS. The display, the keys, the timers and the words without effect (spec 44_display.md R190 to R196, 45_keys_timers.md R212 to R218,
46_noop.md R230, R231), with FX0A's wait as the cycle repeats it (40_cycle.md R105). -/

namespace Sys2Proof.Machine

/-! ### Display -/

theorem State.draw_flag_eq_one_iff_covered (s : State) (x y : RegIdx) (n : Fin 16) :
    (s.draw x y n).reg 15 = 1 ↔ ∃ row col,
      spriteCovers (fun r => s.byteAt (s.ea r)) n.val (s.reg x).toNat (s.reg y).toNat row col = true ∧ s.pixel row col = true := by
  rw [State.draw_reg_flag, flagByte_eq_one_iff, spriteDrawing_collision]

/-- Settles O29: CLS puts the blank display in place of the display. -/
theorem clearDisplayClearsEveryPixel : Obligations.ClearDisplayClearsEveryPixel := by
  intro s
  refine ⟨_, exec_cls s, Display.blank_pixel, ?_⟩
  exact ⟨fun _ _ => rfl, fun _ _ => rfl, by simp⟩

/-- Settles O30: the drawing of DXYN pixel by pixel, with its collision as the flag. -/
theorem drawInvertsExactlyTheCoveredPixels : Obligations.DrawInvertsExactlyTheCoveredPixels := by
  intro x y n s hr
  refine ⟨_, exec_drw_in_range hr, s.draw_pixel x y n, (s.draw_flag_eq_one_iff_covered x y n).2, fun hclear => ?_,
    s.draw_drawFlag x y n, frame_putDrawing s _⟩
  refine (s.draw_flag_eq_zero_or_one x y n).resolve_right fun hone => ?_
  obtain ⟨row, col, hcovered, hlit⟩ := (s.draw_flag_eq_one_iff_covered x y n).1 hone
  simp [hclear row col hcovered] at hlit

/-! ### Timers and words without effect -/

/-- Settles O33: each moves one byte between VX and its timer. -/
theorem timerRegisterMoves : Obligations.TimerRegisterMoves := fun x s =>
  ⟨⟨_, exec_ldVxDt x s, s.setReg_reg_same x _, frame_setReg x _ s⟩, ⟨_, exec_ldDtVx x s, rfl, by simp [Frame]⟩,
    ⟨_, exec_ldStVx x s, rfl, by simp [Frame]⟩⟩

/-- Settles O35: both words answer the state they are given. -/
theorem legacyAndUnrecognizedWordsDoNothing : Obligations.LegacyAndUnrecognizedWordsDoNothing := fun nnn raw s =>
  ⟨exec_sys nnn s, exec_unknown raw s⟩

/-! ### The key wait -/

theorem toNat_ofNat_keyIdx (k : KeyIdx) : (BitVec.ofNat 8 k.val).toNat = k.val := by
  rw [BitVec.toNat_ofNat]
  exact Nat.mod_eq_of_lt (by omega)

/-- Settles O34: FX0A stores a released key, or rewinds PC. -/
theorem keyWaitTakesAReleasedKeyOrRewinds : Obligations.KeyWaitTakesAReleasedKeyOrRewinds := by
  refine fun x s => ⟨fun hsome => ?_, fun hnone => ⟨_, exec_ldVxK_of_none hnone, rfl, frame_setPc _ s⟩⟩
  obtain ⟨k, hk, hexec⟩ := exec_ldVxK_of_released (x := x) hsome
  refine ⟨_, k, hexec, hk, ?_, by simp +contextual [Frame]⟩
  rw [State.setReg_reg_same, toNat_ofNat_keyIdx]

/-- Settles O45: the rewind undoes the cycle's advance, and the one released key is the key stored. -/
theorem keyWaitRepeatsUntilARelease : Obligations.KeyWaitRepeatsUntilARelease := by
  intro x s hrun hpc hdec
  have hstep : StepExecutes s (.ldVxK x) := hdec ▸ stepExecutes_of_fetch hrun hpc
  have hcode : s.fault.code = .none := hrun
  refine ⟨fun hnone => ?_, fun k hk honly => ?_⟩
  · have hexec := exec_ldVxK_of_none (x := x) (s := s.beginCycle.advancePc) hnone
    rw [State.rewindPc_advancePc] at hexec
    refine ⟨_, hstep.completes hexec (by simpa using hcode), ?_⟩
    simp [State.running, hcode]
  · obtain ⟨k', hk', hexec⟩ := exec_ldVxK_of_released (x := x) (s := s.beginCycle.advancePc) ⟨k, hk⟩
    obtain rfl := honly k' hk'
    refine ⟨_, hstep.completes hexec (by simpa using hcode), by simpa [State.running] using hcode, by simp, ?_, ?_⟩
    · rw [State.endCycle_reg, State.setReg_reg_same, toNat_ofNat_keyIdx]
    · simp +contextual

end Sys2Proof.Machine
end

section
/-! PROOFS. What instructions do not observe (spec 10_state.md R28, R32, R33, R37): KeysPrev, ST and DrawFlag put to other values, and every
instruction that names none of the three does the same and carries them along. -/

namespace Sys2Proof.Machine

/-- `s` with other values of KeysPrev, ST and DrawFlag. -/
def State.withUnread (s : State) (k : KeyMatrix) (b : Byte) (d : Bool) : State := { s with keysPrev := k, st := b, drawFlag := d }

theorem State.withUnread_keysPrev (s : State) (k : KeyMatrix) : s.withUnread k s.st s.drawFlag = { s with keysPrev := k } := rfl

/-! ### The shared operations -/

theorem State.storeBytes_withUnread (s : State) (k : KeyMatrix) (b : Byte) (d : Bool) (n : Nat) (f : Nat → Byte) :
    (s.withUnread k b d).storeBytes n f = (s.storeBytes n f).withUnread k b d := by
  induction n with
  | zero => rfl
  | succ n ih => rw [State.storeBytes_succ, ih, State.storeBytes_succ]; rfl

theorem State.loadRegs_withUnread (s : State) (k : KeyMatrix) (b : Byte) (d : Bool) (n : Nat) :
    (s.withUnread k b d).loadRegs n = (s.loadRegs n).withUnread k b d := by
  induction n with
  | zero => rfl
  | succ n ih => rw [State.loadRegs_succ, ih, State.loadRegs_succ]; rfl

theorem State.skipIf_withUnread (s : State) (k : KeyMatrix) (b : Byte) (d c : Bool) :
    (s.withUnread k b d).skipIf c = (s.skipIf c).withUnread k b d := by
  cases c <;> rfl

theorem skip_withUnread {s t : State} {c : Bool} (k : KeyMatrix) (b : Byte) (d : Bool)
    (h : (.next (s.skipIf c) : Result) = .next t) : (.next ((s.withUnread k b d).skipIf c) : Result) = .next (t.withUnread k b d) := by
  cases h
  rw [State.skipIf_withUnread]

/-- An access is checked by I alone, so it faults or runs its body as it would. -/
theorem checkAccess_withUnread {code : FaultCode} {n : Nat} {s body t : State} (k : KeyMatrix) (b : Byte) (d : Bool)
    (h : checkAccess code n s body = .next t) :
    checkAccess code n (s.withUnread k b d) (body.withUnread k b d) = .next (t.withUnread k b d) := by
  rcases checkAccess_next h with ⟨hr, rfl⟩ | ⟨hr, rfl⟩
  · exact checkAccess_in_range _ _ _ _ hr
  · exact checkAccess_of_not_inRange code (s := s.withUnread k b d) _ hr

/-! ### Every other instruction -/

/-- An instruction that does not name KeysPrev, ST or DrawFlag does the same with other values of them. -/
theorem exec_withUnread {i : Instr} {s t : State} (k : KeyMatrix) (b : Byte) (d : Bool) (hwait : ∀ x, i ≠ .ldVxK x)
    (hst : ∀ x, i ≠ .ldStVx x) (hdrw : ∀ x y n, i ≠ .drw x y n) (h : exec i s = .next t) :
    exec i (s.withUnread k b d) = .next (t.withUnread k b d) := by
  cases i
  case ldVxK x => exact absurd rfl (hwait x)
  case ldStVx x => exact absurd rfl (hst x)
  case drw x y n => exact absurd rfl (hdrw x y n)
  case ldBVx x =>
    have := checkAccess_withUnread k b d h
    rwa [← State.storeBytes_withUnread] at this
  case ldMiVx x =>
    have := checkAccess_withUnread k b d h
    rwa [← State.storeBytes_withUnread] at this
  case ldVxMi x =>
    have := checkAccess_withUnread k b d h
    rwa [← State.loadRegs_withUnread] at this
  case ret =>
    rcases exec_ret_next h with ⟨hsp, rfl⟩ | ⟨hsp, rfl⟩
    · exact exec_ret_of_pos (s := s.withUnread k b d) hsp
    · exact exec_ret_of_empty (s := s.withUnread k b d) hsp
  case call nnn =>
    rcases exec_call_next h with ⟨hsp, rfl⟩ | ⟨hsp, rfl⟩
    · exact exec_call_of_lt (s := s.withUnread k b d) nnn hsp
    · exact exec_call_of_full (s := s.withUnread k b d) nnn hsp
  case seImm => exact skip_withUnread k b d h
  case sneImm => exact skip_withUnread k b d h
  case seReg => exact skip_withUnread k b d h
  case sneReg => exact skip_withUnread k b d h
  case skp => exact skip_withUnread k b d h
  case sknp => exact skip_withUnread k b d h
  -- The others answer one update, of other fields and computed from other fields.
  all_goals
    cases h
    rfl

/-! ### The obligations -/

/-- Settles O56: FX18 and DXYN write ST and DrawFlag whatever KeysPrev holds, and any other instruction leaves both as they are. -/
theorem onlyTheKeyWaitObservesKeysPrev : Obligations.OnlyTheKeyWaitObservesKeysPrev := by
  intro i s t k hwait h
  by_cases hst : ∃ x, i = .ldStVx x
  · obtain ⟨x, rfl⟩ := hst
    cases h
    rfl
  by_cases hdrw : ∃ x y n, i = .drw x y n
  · obtain ⟨x, y, n, rfl⟩ := hdrw
    rcases checkAccess_next h with ⟨hr, rfl⟩ | ⟨hr, rfl⟩
    · exact exec_drw_in_range (s := { s with keysPrev := k }) hr
    · exact checkAccess_of_not_inRange (s := { s with keysPrev := k }) .readFault _ hr
  have hst' : ∀ x, i ≠ .ldStVx x := not_exists.1 hst
  have hdrw' : ∀ x y n, i ≠ .drw x y n := fun x y n hi => hdrw ⟨x, y, n, hi⟩
  have ht : t.withUnread k s.st s.drawFlag = { t with keysPrev := k } := by
    rw [← exec_st_eq h hst', ← exec_drawFlag_eq h hdrw', State.withUnread_keysPrev]
  exact ht ▸ exec_withUnread k s.st s.drawFlag hwait hst' hdrw' h

/-- Settles O57: FX0A reads neither, FX18 and DXYN write without reading, and any other instruction leaves both as they are. -/
theorem noInstructionReadsSoundTimerOrDrawFlag : Obligations.NoInstructionReadsSoundTimerOrDrawFlag := by
  intro i s t b d h
  by_cases hst : ∃ x, i = .ldStVx x
  · obtain ⟨x, rfl⟩ := hst
    cases h
    exact ⟨_, rfl, rfl⟩
  by_cases hdrw : ∃ x y n, i = .drw x y n
  · obtain ⟨x, y, n, rfl⟩ := hdrw
    rcases checkAccess_next h with ⟨hr, rfl⟩ | ⟨hr, rfl⟩
    · exact ⟨_, exec_drw_in_range (s := { s with st := b, drawFlag := d }) hr, rfl⟩
    · exact ⟨_, checkAccess_of_not_inRange (s := { s with st := b, drawFlag := d }) .readFault _ hr, rfl⟩
  by_cases hwait : ∃ x, i = .ldVxK x
  · obtain ⟨x, rfl⟩ := hwait
    cases hks : releasedKeys s
    case nil =>
      cases (exec_ldVxK_of_nil hks).symm.trans h
      exact ⟨_, exec_ldVxK_of_nil (s := { s with st := b, drawFlag := d }) hks, rfl⟩
    case cons k ks =>
      cases (exec_ldVxK_of_cons hks).symm.trans h
      exact ⟨_, exec_ldVxK_of_cons (s := { s with st := b, drawFlag := d }) hks, rfl⟩
  have hdrw' : ∀ x y n, i ≠ .drw x y n := fun x y n hi => hdrw ⟨x, y, n, hi⟩
  refine ⟨_, exec_withUnread s.keysPrev b d (not_exists.1 hwait) (not_exists.1 hst) hdrw' h, ?_⟩
  obtain ⟨-, hprev, -⟩ := exec_keys h
  rw [← hprev]
  rfl

end Sys2Proof.Machine
end

section
/-! PROOFS. Reset and the load (spec 10_state.md R38, 70_reset_and_hazards.md R270, R273): the values at reset, and the refused image. -/

namespace Sys2Proof.Machine

/-- Memory at reset reads as the font, and 0 above it (R57, R60). -/
theorem State.reset_byteAt (a : Nat) : State.reset.byteAt a = Params.fontBytes.getD a 0 := rfl

theorem map_getD_range_length (l : List Byte) : (List.range l.length).map (fun a => l.getD a 0) = l := by
  refine List.ext_getElem (by simp) fun k hk hk' => ?_
  simp [hk']

theorem reset_font : (List.range 0x50).map State.reset.byteAt = Params.fontBytes :=
  map_getD_range_length Params.fontBytes

theorem reset_byteAt_above_font {a : Nat} (h : 0x50 ≤ a) : State.reset.byteAt a = 0 := by
  rw [State.reset_byteAt]
  exact List.getD_eq_default _ _ h

/-- Settles O49: registers, stack and keys are filled with one value, memory reads as the font, and the display is blank. -/
theorem resetValues : Obligations.ResetValues :=
  ⟨fun r => Vector.getElem_replicate r.isLt, rfl, rfl, rfl, fun k => Vector.getElem_replicate k.isLt, rfl, rfl,
    fun k => ⟨Vector.getElem_replicate k.isLt, Vector.getElem_replicate k.isLt⟩, reset_font, fun _ => reset_byteAt_above_font,
    Display.blank_pixel, rfl, rfl, rfl⟩

/-- Settles O59: the load compares the length first. -/
theorem oversizeImageIsRefused : Obligations.OversizeImageIsRefused := fun _ _ h => if_neg (Nat.not_le.2 h)

end Sys2Proof.Machine
end
